-- ==== Sys2Proof/Word.lean ====
section
/-!
DEFINITION. The word types of the block: 32-bit registers and data (spec/00_scope.md R9), bytes, the 16-bit PHY
registers and the 5-bit MII addresses.
-/

namespace Sys2Proof

/-- A 32-bit value: a register, a bus datum, a result (R33, R550). -/
abbrev Word := BitVec 32

/-- One byte of system memory or of a frame (R100, R102). -/
abbrev Byte := BitVec 8

/-- A 16-bit PHY register (R350). -/
abbrev Half := BitVec 16

/-- A 5-bit MII address: of a PHY or of one of its registers (R43). -/
abbrev MiiAddr := BitVec 5

/-- The name of a callback (R72).  Each id has a body, see `Machine.State.bodies`. -/
abbrev CallbackId := Nat

end Sys2Proof
end

