-- ==== Sys2Proof/Machine/Event.lean ====
section
/-!
DEFINITION. The agents (spec/00_scope.md R8), the events of the history (spec/10_state.md R84) and the choices the
environment makes for one step (spec/46_agents.md R530 to R533).  Types only: they stand before Config because the free
schedule and the PHY oracle of Config are functions over them.
-/

namespace Sys2Proof.Machine

/-- The six agents that step (R8). -/
inductive Agent where
  | fg
  | irq
  | rxdma
  | txdma
  | mii
  | env
  deriving DecidableEq, Repr

/-- The direction of a bus transaction or of a memory access. -/
inductive Dir where
  | read
  | write
  deriving DecidableEq, Repr

/-- What became of a frame the wire offered (R501, R503, R504). -/
inductive Verdict where
  | accepted
  | discarded
  | lost
  deriving DecidableEq, Repr

/-- The names of the fault reasons (R602), as the history records them.  What raises each is said at `Fault`. -/
inductive FaultReason where
  | unpowered
  | illegalCommand
  | unmapped
  | refused
  | roWrite
  | woRead
  | miiBusyOverlap
  | miiInReset
  | misaligned
  | badAddress
  | ownershipViolation
  | ringNotInitialised
  | txRingFull
  | rxRingEmpty
  | lengthOutOfRange
  | indexOutOfRange
  | ringConfigWhileEnabled
  | forbiddenInContext
  | initWithoutDeinit
  deriving DecidableEq, Repr

/-- One entry of the history (R84). -/
inductive Event where
  /-- a bus transaction: agent, register offset, direction, value -/
  | bus (agent : Agent) (off : BitVec 12) (dir : Dir) (value : Word)
  /-- a memory access: agent, byte address, width in bytes, direction, value -/
  | mem (agent : Agent) (addr : Nat) (width : Nat) (dir : Dir) (value : Word)
  /-- a completed PHY write cycle (R520) -/
  | phyWrite (phy reg : MiiAddr) (value : Half)
  /-- a completed PHY read cycle (R521) -/
  | phyRead (phy reg : MiiAddr) (value : Half)
  /-- a fragment sent on the wire (R511, R513) -/
  | txFrame (bytes : List Byte) (last : Bool)
  /-- data received from the wire, with the frame's error attributes, and what became of it -/
  | rxFrame (bytes : List Byte) (err : BitVec 7) (verdict : Verdict)
  /-- a callback invocation: ordinal and id (R456) -/
  | invoke (ordinal : Fin 10) (id : CallbackId)
  /-- a DELAY_MS step (R242) -/
  | delayMs (n : Word)
  /-- a fault, the last event of its run: agent, reason, and the offset or address involved (R602) -/
  | fault (agent : Agent) (reason : FaultReason) (addr : Option Nat)
  deriving DecidableEq, Repr

/-- A frame that ENV offers to RXDMA, with every draw an RXDMA step may take (R503 to R507, R531).  A frame has at
least six bytes: its destination address `da`, octet 0 first, then `rest`. -/
structure RxOffer where
  /-- the destination address, octet 0 first on the wire -/
  da : Vector Byte 6
  /-- the bytes after the destination address -/
  rest : List Byte
  /-- the error attributes: bits 23 to 29 of the RX info word -/
  err : BitVec 7
  /-- the draw of CONTROL_FRAME -/
  control : Bool
  /-- the draw of VLAN -/
  vlan : Bool
  /-- the draw of info bits 29:18 before the last fragment -/
  midInfo : BitVec 12
  /-- the draw of the hash-CRC word (R507) -/
  hashCrc : Word
  /-- the draw of whether the multicast hash filter takes a broadcast frame (R506) -/
  bcastHash : Bool
  /-- the draws of RX_OVERRUN, RX_ERROR and RX_FINISHED at a full ring (R504) -/
  overflow : BitVec 3
  deriving DecidableEq, Repr, Inhabited

/-- Who takes the next step, with the environment's draws for it (R8, R533). -/
inductive Turn where
  | fg
  | irq
  /-- RXDMA, to which ENV offers a new frame, or the next fragment while a frame is in progress -/
  | rxdma (offer : RxOffer)
  /-- TXDMA, with the draw of bits 30:21 of the status word (R511) -/
  | txdma (status : BitVec 10)
  | mii
  /-- ENV's wake step, with the draw of the wake bits (R532) -/
  | wake (bits : BitVec 9)
  deriving DecidableEq, Repr, Inhabited

end Sys2Proof.Machine
end

