-- ==== Sys2Proof/Syntax.lean ====
section
/-!
DEFINITION. The commands of the block: the registers of spec/10_state.md R33 that are in scope, one constructor of `Instr`
for each row of spec/opcode_table.json (spec/30_encoding.md R158, R159) with the argument record of R156, and the lines a
host program is made of (R164).
-/

namespace Sys2Proof

/-- The in-scope registers of the register map (R33). -/
inductive Reg where
  | mac1
  | mac2
  | ipgt
  | ipgr
  | clrt
  | maxf
  | supp
  | mcfg
  | mcmd
  | madr
  | mwtd
  | mrdd
  | mind
  | sa0
  | sa1
  | sa2
  | command
  | status
  | rxDescriptor
  | rxStatus
  | rxDescriptorNumber
  | rxProduceIndex
  | rxConsumeIndex
  | txDescriptor
  | txStatus
  | txDescriptorNumber
  | txProduceIndex
  | txConsumeIndex
  | rxFilterCtrl
  | rxFilterWoLStatus
  | rxFilterWoLClear
  | hashFilterL
  | hashFilterH
  | intStatus
  | intEnable
  | intClear
  | intSet
  deriving DecidableEq, Repr

/-- The operations of the OP format (R159). -/
inductive Op where
  | initRxRing
  | initTxRing
  | writeTxPacket
  | readRxPacket
  | advanceConsume
  | advanceProduce
  | checkReceiveIndex
  | checkTransmitIndex
  | writePhy
  | readPhy
  | detectPhy
  | checkStatus
  | setMode
  | updateStatus
  | init
  | deinit
  | setHashFilter
  | setupCallback
  | dispatch
  | crc32
  | memRead32
  | memWrite32
  | delayMs
  | beq
  | bne
  | jmp
  | halt
  deriving DecidableEq, Repr

/-- One argument of an argument record, before its type is checked (R156, R157). -/
inductive Arg where
  /-- a number -/
  | num (n : Nat)
  /-- a list of octets, element 0 first -/
  | bytes (bs : List Byte)
  /-- a callback reference: `none` is the null reference -/
  | cb (ref : Option CallbackId)
  deriving DecidableEq, Repr

/-- One line of a host program: a command word and its argument record (R150, R552). -/
structure Line where
  word : Word
  args : List Arg
  deriving DecidableEq, Repr, Inhabited

/-- The commands.  A `u32` argument is a word.  Arguments of the narrower types of R156 (`u5`, `u16`, `u8[6]`, `Bool`,
`Label`) are plain numbers and lists, and `Instr.wellFormed` says which of them are of their type (R157). -/
inductive Instr where
  /-- RD MAC1, R204 -/
  | rdMac1
  /-- WR MAC1, R204 -/
  | wrMac1 (data : Word)
  /-- RD MAC2, R205 -/
  | rdMac2
  /-- WR MAC2, R205 -/
  | wrMac2 (data : Word)
  /-- RD IPGT, R206 -/
  | rdIpgt
  /-- WR IPGT, R206 -/
  | wrIpgt (data : Word)
  /-- RD IPGR, R207 -/
  | rdIpgr
  /-- WR IPGR, R207 -/
  | wrIpgr (data : Word)
  /-- RD CLRT, R208 -/
  | rdClrt
  /-- WR CLRT, R208 -/
  | wrClrt (data : Word)
  /-- RD MAXF, R209 -/
  | rdMaxf
  /-- WR MAXF, R209 -/
  | wrMaxf (data : Word)
  /-- RD SUPP, R210 -/
  | rdSupp
  /-- WR SUPP, R210 -/
  | wrSupp (data : Word)
  /-- RD MCFG, R213 -/
  | rdMcfg
  /-- WR MCFG, R213 -/
  | wrMcfg (data : Word)
  /-- RD MCMD, R212 -/
  | rdMcmd
  /-- WR MCMD, R212 -/
  | wrMcmd (data : Word)
  /-- RD MADR, R215 -/
  | rdMadr
  /-- WR MADR, R215 -/
  | wrMadr (data : Word)
  /-- RD MWTD, R202 -/
  | rdMwtd
  /-- WR MWTD, R211 -/
  | wrMwtd (data : Word)
  /-- RD MRDD, R216 -/
  | rdMrdd
  /-- WR MRDD, R202 -/
  | wrMrdd (data : Word)
  /-- RD MIND, R217 -/
  | rdMind
  /-- WR MIND, R202 -/
  | wrMind (data : Word)
  /-- RD SA0, R218 -/
  | rdSa0
  /-- WR SA0, R218 -/
  | wrSa0 (data : Word)
  /-- RD SA1, R218 -/
  | rdSa1
  /-- WR SA1, R218 -/
  | wrSa1 (data : Word)
  /-- RD SA2, R218 -/
  | rdSa2
  /-- WR SA2, R218 -/
  | wrSa2 (data : Word)
  /-- RD Command, R220 -/
  | rdCommand
  /-- WR Command, R220 -/
  | wrCommand (data : Word)
  /-- RD Status, R219 -/
  | rdStatus
  /-- WR Status, R202 -/
  | wrStatus (data : Word)
  /-- RD RxDescriptor, R221 -/
  | rdRxDescriptor
  /-- WR RxDescriptor, R221 -/
  | wrRxDescriptor (data : Word)
  /-- RD RxStatus, R221 -/
  | rdRxStatus
  /-- WR RxStatus, R221 -/
  | wrRxStatus (data : Word)
  /-- RD RxDescriptorNumber, R221 -/
  | rdRxDescriptorNumber
  /-- WR RxDescriptorNumber, R221 -/
  | wrRxDescriptorNumber (data : Word)
  /-- RD RxProduceIndex, R224 -/
  | rdRxProduceIndex
  /-- WR RxProduceIndex, R202 -/
  | wrRxProduceIndex (data : Word)
  /-- RD RxConsumeIndex, R222 -/
  | rdRxConsumeIndex
  /-- WR RxConsumeIndex, R222 -/
  | wrRxConsumeIndex (data : Word)
  /-- RD TxDescriptor, R221 -/
  | rdTxDescriptor
  /-- WR TxDescriptor, R221 -/
  | wrTxDescriptor (data : Word)
  /-- RD TxStatus, R221 -/
  | rdTxStatus
  /-- WR TxStatus, R221 -/
  | wrTxStatus (data : Word)
  /-- RD TxDescriptorNumber, R221 -/
  | rdTxDescriptorNumber
  /-- WR TxDescriptorNumber, R221 -/
  | wrTxDescriptorNumber (data : Word)
  /-- RD TxProduceIndex, R223 -/
  | rdTxProduceIndex
  /-- WR TxProduceIndex, R223 -/
  | wrTxProduceIndex (data : Word)
  /-- RD TxConsumeIndex, R224 -/
  | rdTxConsumeIndex
  /-- WR TxConsumeIndex, R202 -/
  | wrTxConsumeIndex (data : Word)
  /-- RD RxFilterCtrl, R225 -/
  | rdRxFilterCtrl
  /-- WR RxFilterCtrl, R225 -/
  | wrRxFilterCtrl (data : Word)
  /-- RD RxFilterWoLStatus, R226 -/
  | rdRxFilterWoLStatus
  /-- WR RxFilterWoLStatus, R202 -/
  | wrRxFilterWoLStatus (data : Word)
  /-- RD RxFilterWoLClear, R202 -/
  | rdRxFilterWoLClear
  /-- WR RxFilterWoLClear, R227 -/
  | wrRxFilterWoLClear (data : Word)
  /-- RD HashFilterL, R228 -/
  | rdHashFilterL
  /-- WR HashFilterL, R228 -/
  | wrHashFilterL (data : Word)
  /-- RD HashFilterH, R228 -/
  | rdHashFilterH
  /-- WR HashFilterH, R228 -/
  | wrHashFilterH (data : Word)
  /-- RD IntStatus, R229 -/
  | rdIntStatus
  /-- WR IntStatus, R202 -/
  | wrIntStatus (data : Word)
  /-- RD IntEnable, R230 -/
  | rdIntEnable
  /-- WR IntEnable, R230 -/
  | wrIntEnable (data : Word)
  /-- RD IntClear, R202 -/
  | rdIntClear
  /-- WR IntClear, R231 -/
  | wrIntClear (data : Word)
  /-- RD IntSet, R202 -/
  | rdIntSet
  /-- WR IntSet, R232 -/
  | wrIntSet (data : Word)
  /-- INIT_RX_RING, R300 -/
  | initRxRing
  /-- INIT_TX_RING, R301 -/
  | initTxRing
  /-- WRITE_TX_PACKET, R302 -/
  | writeTxPacket (src : Word) (len : Word)
  /-- READ_RX_PACKET, R303 -/
  | readRxPacket (dst : Word) (len : Word)
  /-- ADVANCE_CONSUME, R304 -/
  | advanceConsume
  /-- ADVANCE_PRODUCE, R305 -/
  | advanceProduce
  /-- CHECK_RECEIVE_INDEX, R306 -/
  | checkReceiveIndex
  /-- CHECK_TRANSMIT_INDEX, R307 -/
  | checkTransmitIndex
  /-- WRITE_PHY, R353 -/
  | writePhy (reg : Nat) (value : Nat)
  /-- READ_PHY, R354 -/
  | readPhy (reg : Nat)
  /-- DETECT_PHY, R355 -/
  | detectPhy
  /-- CHECK_STATUS, R356 -/
  | checkStatus (kind : Word)
  /-- SET_MODE, R357 -/
  | setMode (mode : Word)
  /-- UPDATE_STATUS, R359 -/
  | updateStatus
  /-- INIT, R400 -/
  | init (mac : List Byte) (mode : Word)
  /-- DEINIT, R404 -/
  | deinit
  /-- SET_HASH_FILTER, R405 -/
  | setHashFilter (addr : List Byte) (enable : Nat)
  /-- SETUP_CALLBACK, R450 -/
  | setupCallback (typeMask : Word) (fn : Option CallbackId)
  /-- DISPATCH, R453 -/
  | dispatch
  /-- CRC32, R480 -/
  | crc32 (data : List Byte)
  /-- MEM_READ32, R240 -/
  | memRead32 (addr : Word)
  /-- MEM_WRITE32, R241 -/
  | memWrite32 (addr : Word) (value : Word)
  /-- DELAY_MS, R242 -/
  | delayMs (n : Word)
  /-- BEQ, R553 -/
  | beq (imm : Word) (target : Nat)
  /-- BNE, R554 -/
  | bne (imm : Word) (target : Nat)
  /-- JMP, R555 -/
  | jmp (target : Nat)
  /-- HALT, R556 -/
  | halt
  deriving DecidableEq, Repr

end Sys2Proof
end

