-- ==== Sys2Proof/WellFormed.lean ====
section
/-!
DEFINITION. Which commands carry arguments of the types of spec/30_encoding.md R156.  A command that does not is ill-formed and
faults IllegalCommand before any state changes (R157).  A `Label` is checked against the length of its program, so its
check takes that length (spec/47_program.md R552).
-/

namespace Sys2Proof

/-- A `u5` (R156). -/
def isU5 (n : Nat) : Bool := n < 32

/-- A `u16` (R156). -/
def isU16 (n : Nat) : Bool := n < 65536

/-- A `u8[6]` (R156). -/
def isMac (bs : List Byte) : Bool := bs.length == 6

/-- A `Bool` argument: 0 or 1 (R156). -/
def isFlag (n : Nat) : Bool := n < 2

/-- A `Label` of a program of `len` lines; `len` itself means the end (R552). -/
def isLabel (len target : Nat) : Bool := target ≤ len

/-- Every argument is of the type R156 gives it, in a program of `len` lines. -/
def Instr.wellFormed (len : Nat) (i : Instr) : Bool :=
  match i with
  | .writePhy reg value => isU5 reg && isU16 value
  | .readPhy reg => isU5 reg
  | .init mac _ => isMac mac
  | .setHashFilter addr enable => isMac addr && isFlag enable
  | .beq _ target => isLabel len target
  | .bne _ target => isLabel len target
  | .jmp target => isLabel len target
  | .rdMac1 | .wrMac1 _ | .rdMac2 | .wrMac2 _ | .rdIpgt | .wrIpgt _ | .rdIpgr | .wrIpgr _ | .rdClrt |
    .wrClrt _ | .rdMaxf | .wrMaxf _ | .rdSupp | .wrSupp _ | .rdMcfg | .wrMcfg _ | .rdMcmd | .wrMcmd _ |
    .rdMadr | .wrMadr _ | .rdMwtd | .wrMwtd _ | .rdMrdd | .wrMrdd _ | .rdMind | .wrMind _ | .rdSa0 | .wrSa0 _ |
    .rdSa1 | .wrSa1 _ | .rdSa2 | .wrSa2 _ | .rdCommand | .wrCommand _ | .rdStatus | .wrStatus _ |
    .rdRxDescriptor | .wrRxDescriptor _ | .rdRxStatus | .wrRxStatus _ | .rdRxDescriptorNumber |
    .wrRxDescriptorNumber _ | .rdRxProduceIndex | .wrRxProduceIndex _ | .rdRxConsumeIndex |
    .wrRxConsumeIndex _ | .rdTxDescriptor | .wrTxDescriptor _ | .rdTxStatus | .wrTxStatus _ |
    .rdTxDescriptorNumber | .wrTxDescriptorNumber _ | .rdTxProduceIndex | .wrTxProduceIndex _ |
    .rdTxConsumeIndex | .wrTxConsumeIndex _ | .rdRxFilterCtrl | .wrRxFilterCtrl _ | .rdRxFilterWoLStatus |
    .wrRxFilterWoLStatus _ | .rdRxFilterWoLClear | .wrRxFilterWoLClear _ | .rdHashFilterL | .wrHashFilterL _ |
    .rdHashFilterH | .wrHashFilterH _ | .rdIntStatus | .wrIntStatus _ | .rdIntEnable | .wrIntEnable _ |
    .rdIntClear | .wrIntClear _ | .rdIntSet | .wrIntSet _ | .initRxRing | .initTxRing | .writeTxPacket _ _ |
    .readRxPacket _ _ | .advanceConsume | .advanceProduce | .checkReceiveIndex | .checkTransmitIndex |
    .detectPhy | .checkStatus _ | .setMode _ | .updateStatus | .deinit | .setupCallback _ _ | .dispatch |
    .crc32 _ | .memRead32 _ | .memWrite32 _ _ | .delayMs _ | .halt => true

end Sys2Proof
end

