-- ==== Sys2Proof/Decode.lean ====
section
/-!
DEFINITION. The decoder and the encoder of the command words (spec/30_encoding.md R150 to R165).  `decodeWord` is the total
decoder of R155; it does not consult the register map.  `decodeLine` reads a program line: the word, then the argument
record in the shape the command asks for (R156, R157).
-/

namespace Sys2Proof

open Sys2Proof.Machine (Dir)

/-! ### The word (R151 to R155) -/

/-- What a command word is (R155). -/
inductive Decoded where
  | bus (dir : Dir) (off : BitVec 12)
  | op (o : Op)
  | illegal
  deriving DecidableEq, Repr

/-- The OPCODE of an operation (R159). -/
def Op.code : Op → BitVec 8
  | .initRxRing => 0x01#8
  | .initTxRing => 0x02#8
  | .writeTxPacket => 0x03#8
  | .readRxPacket => 0x04#8
  | .advanceConsume => 0x05#8
  | .advanceProduce => 0x06#8
  | .checkReceiveIndex => 0x07#8
  | .checkTransmitIndex => 0x08#8
  | .writePhy => 0x10#8
  | .readPhy => 0x11#8
  | .detectPhy => 0x12#8
  | .checkStatus => 0x13#8
  | .setMode => 0x14#8
  | .updateStatus => 0x15#8
  | .init => 0x20#8
  | .deinit => 0x21#8
  | .setHashFilter => 0x22#8
  | .setupCallback => 0x30#8
  | .dispatch => 0x31#8
  | .crc32 => 0x40#8
  | .memRead32 => 0x50#8
  | .memWrite32 => 0x51#8
  | .delayMs => 0x52#8
  | .beq => 0x60#8
  | .bne => 0x61#8
  | .jmp => 0x62#8
  | .halt => 0x63#8

/-- The operations of R159, in its order. -/
def allOps : List Op :=
  [.initRxRing, .initTxRing, .writeTxPacket, .readRxPacket, .advanceConsume, .advanceProduce,
   .checkReceiveIndex, .checkTransmitIndex, .writePhy, .readPhy, .detectPhy, .checkStatus, .setMode,
   .updateStatus, .init, .deinit, .setHashFilter, .setupCallback, .dispatch, .crc32,
   .memRead32, .memWrite32, .delayMs, .beq, .bne, .jmp, .halt]

/-- The operation with an OPCODE; `none` for a reserved one (R162). -/
def opAt (code : BitVec 8) : Option Op := allOps.find? (fun o => o.code == code)

/-- The decoder of R155: total on 32-bit words. -/
def decodeWord (w : Word) : Decoded :=
  if w.extractLsb' 30 2 = 3#2 then .illegal
  else if w.getLsbD 30 = false then
    if w.extractLsb' 12 18 ≠ 0#18 ∨ w.extractLsb' 0 2 ≠ 0#2 then .illegal
    else .bus (if w.getLsbD 31 then .write else .read) (w.extractLsb' 0 12)
  else if w.extractLsb' 8 22 ≠ 0#22 then .illegal
  else
    match opAt (w.extractLsb' 0 8) with
    | some o => .op o
    | none => .illegal

/-- The word of a BUS command (R152). -/
def busWord (dir : Dir) (off : BitVec 12) : Word :=
  (match dir with | .read => 0x00000000#32 | .write => 0x80000000#32) ||| off.setWidth 32

/-- The word of an OP command (R153). -/
def opWord (code : BitVec 8) : Word := 0x40000000#32 ||| code.setWidth 32

/-! ### The register map (R33, R158, R160) -/

/-- The offset of an in-scope register (R33). -/
def Reg.offset : Reg → BitVec 12
  | .mac1 => 0x000#12
  | .mac2 => 0x004#12
  | .ipgt => 0x008#12
  | .ipgr => 0x00C#12
  | .clrt => 0x010#12
  | .maxf => 0x014#12
  | .supp => 0x018#12
  | .mcfg => 0x020#12
  | .mcmd => 0x024#12
  | .madr => 0x028#12
  | .mwtd => 0x02C#12
  | .mrdd => 0x030#12
  | .mind => 0x034#12
  | .sa0 => 0x040#12
  | .sa1 => 0x044#12
  | .sa2 => 0x048#12
  | .command => 0x100#12
  | .status => 0x104#12
  | .rxDescriptor => 0x108#12
  | .rxStatus => 0x10C#12
  | .rxDescriptorNumber => 0x110#12
  | .rxProduceIndex => 0x114#12
  | .rxConsumeIndex => 0x118#12
  | .txDescriptor => 0x11C#12
  | .txStatus => 0x120#12
  | .txDescriptorNumber => 0x124#12
  | .txProduceIndex => 0x128#12
  | .txConsumeIndex => 0x12C#12
  | .rxFilterCtrl => 0x200#12
  | .rxFilterWoLStatus => 0x204#12
  | .rxFilterWoLClear => 0x208#12
  | .hashFilterL => 0x210#12
  | .hashFilterH => 0x214#12
  | .intStatus => 0xFE0#12
  | .intEnable => 0xFE4#12
  | .intClear => 0xFE8#12
  | .intSet => 0xFEC#12

/-- The in-scope registers, in the order of R33. -/
def allRegs : List Reg :=
  [.mac1, .mac2, .ipgt, .ipgr, .clrt, .maxf, .supp, .mcfg, .mcmd, .madr,
   .mwtd, .mrdd, .mind, .sa0, .sa1, .sa2, .command, .status,
   .rxDescriptor, .rxStatus, .rxDescriptorNumber, .rxProduceIndex, .rxConsumeIndex,
   .txDescriptor, .txStatus, .txDescriptorNumber, .txProduceIndex, .txConsumeIndex,
   .rxFilterCtrl, .rxFilterWoLStatus, .rxFilterWoLClear, .hashFilterL, .hashFilterH, .intStatus, .intEnable, .intClear, .intSet]

/-- The in-scope register at an offset. -/
def regAt (off : BitVec 12) : Option Reg := allRegs.find? (fun r => r.offset == off)

/-- The registers of R33 that are out of scope: TEST, TSV0, TSV1, RSV, FlowControlCounter, FlowControlStatus, PowerDown
(R160). -/
def outOfScopeOffsets : List (BitVec 12) := [0x01C, 0x158, 0x15C, 0x160, 0x170, 0x174, 0xFF4]

/-- The BUS-R command of a register (R158). -/
def rdInstr : Reg → Instr
  | .mac1 => .rdMac1
  | .mac2 => .rdMac2
  | .ipgt => .rdIpgt
  | .ipgr => .rdIpgr
  | .clrt => .rdClrt
  | .maxf => .rdMaxf
  | .supp => .rdSupp
  | .mcfg => .rdMcfg
  | .mcmd => .rdMcmd
  | .madr => .rdMadr
  | .mwtd => .rdMwtd
  | .mrdd => .rdMrdd
  | .mind => .rdMind
  | .sa0 => .rdSa0
  | .sa1 => .rdSa1
  | .sa2 => .rdSa2
  | .command => .rdCommand
  | .status => .rdStatus
  | .rxDescriptor => .rdRxDescriptor
  | .rxStatus => .rdRxStatus
  | .rxDescriptorNumber => .rdRxDescriptorNumber
  | .rxProduceIndex => .rdRxProduceIndex
  | .rxConsumeIndex => .rdRxConsumeIndex
  | .txDescriptor => .rdTxDescriptor
  | .txStatus => .rdTxStatus
  | .txDescriptorNumber => .rdTxDescriptorNumber
  | .txProduceIndex => .rdTxProduceIndex
  | .txConsumeIndex => .rdTxConsumeIndex
  | .rxFilterCtrl => .rdRxFilterCtrl
  | .rxFilterWoLStatus => .rdRxFilterWoLStatus
  | .rxFilterWoLClear => .rdRxFilterWoLClear
  | .hashFilterL => .rdHashFilterL
  | .hashFilterH => .rdHashFilterH
  | .intStatus => .rdIntStatus
  | .intEnable => .rdIntEnable
  | .intClear => .rdIntClear
  | .intSet => .rdIntSet

/-- The BUS-W command of a register (R158). -/
def wrInstr (r : Reg) (data : Word) : Instr :=
  match r with
  | .mac1 => .wrMac1 data
  | .mac2 => .wrMac2 data
  | .ipgt => .wrIpgt data
  | .ipgr => .wrIpgr data
  | .clrt => .wrClrt data
  | .maxf => .wrMaxf data
  | .supp => .wrSupp data
  | .mcfg => .wrMcfg data
  | .mcmd => .wrMcmd data
  | .madr => .wrMadr data
  | .mwtd => .wrMwtd data
  | .mrdd => .wrMrdd data
  | .mind => .wrMind data
  | .sa0 => .wrSa0 data
  | .sa1 => .wrSa1 data
  | .sa2 => .wrSa2 data
  | .command => .wrCommand data
  | .status => .wrStatus data
  | .rxDescriptor => .wrRxDescriptor data
  | .rxStatus => .wrRxStatus data
  | .rxDescriptorNumber => .wrRxDescriptorNumber data
  | .rxProduceIndex => .wrRxProduceIndex data
  | .rxConsumeIndex => .wrRxConsumeIndex data
  | .txDescriptor => .wrTxDescriptor data
  | .txStatus => .wrTxStatus data
  | .txDescriptorNumber => .wrTxDescriptorNumber data
  | .txProduceIndex => .wrTxProduceIndex data
  | .txConsumeIndex => .wrTxConsumeIndex data
  | .rxFilterCtrl => .wrRxFilterCtrl data
  | .rxFilterWoLStatus => .wrRxFilterWoLStatus data
  | .rxFilterWoLClear => .wrRxFilterWoLClear data
  | .hashFilterL => .wrHashFilterL data
  | .hashFilterH => .wrHashFilterH data
  | .intStatus => .wrIntStatus data
  | .intEnable => .wrIntEnable data
  | .intClear => .wrIntClear data
  | .intSet => .wrIntSet data

/-! ### The argument record (R156, R157) -/

/-- A `u32` argument: a number below 2^32. -/
def u32? (n : Nat) : Option Word := if n < 2 ^ 32 then some (BitVec.ofNat 32 n) else none

/-- What a program line is.  A BUS line whose offset has no in-scope register is legal and faults when executed (R160), so
it is kept apart from an illegal one. -/
inductive Fetched where
  | instr (i : Instr)
  | hole (dir : Dir) (off : BitVec 12)
  | illegal
  deriving DecidableEq, Repr

/-- No argument. -/
def args0 (i : Instr) : List Arg → Option Instr
  | [] => some i
  | _ => none

/-- One `u32`. -/
def argsW (f : Word → Instr) : List Arg → Option Instr
  | [.num a] => (u32? a).map f
  | _ => none

/-- Two `u32`. -/
def argsWW (f : Word → Word → Instr) : List Arg → Option Instr
  | [.num a, .num b] => (u32? a).bind fun x => (u32? b).map (f x)
  | _ => none

/-- One number of a narrower type. -/
def argsN (f : Nat → Instr) : List Arg → Option Instr
  | [.num a] => some (f a)
  | _ => none

/-- Two numbers of narrower types. -/
def argsNN (f : Nat → Nat → Instr) : List Arg → Option Instr
  | [.num a, .num b] => some (f a b)
  | _ => none

/-- A `u32` and a number of a narrower type. -/
def argsWN (f : Word → Nat → Instr) : List Arg → Option Instr
  | [.num a, .num b] => (u32? a).map fun x => f x b
  | _ => none

/-- Octets. -/
def argsB (f : List Byte → Instr) : List Arg → Option Instr
  | [.bytes a] => some (f a)
  | _ => none

/-- Octets and a `u32`. -/
def argsBW (f : List Byte → Word → Instr) : List Arg → Option Instr
  | [.bytes a, .num b] => (u32? b).map (f a)
  | _ => none

/-- Octets and a number of a narrower type. -/
def argsBN (f : List Byte → Nat → Instr) : List Arg → Option Instr
  | [.bytes a, .num b] => some (f a b)
  | _ => none

/-- A `u32` and a callback reference. -/
def argsWC (f : Word → Option CallbackId → Instr) : List Arg → Option Instr
  | [.num a, .cb b] => (u32? a).map fun x => f x b
  | _ => none

/-- The command of an operation with its argument record; `none` where the record's shape differs from R156's. -/
def opInstr : Op → List Arg → Option Instr
  | .initRxRing => args0 .initRxRing
  | .initTxRing => args0 .initTxRing
  | .writeTxPacket => argsWW .writeTxPacket
  | .readRxPacket => argsWW .readRxPacket
  | .advanceConsume => args0 .advanceConsume
  | .advanceProduce => args0 .advanceProduce
  | .checkReceiveIndex => args0 .checkReceiveIndex
  | .checkTransmitIndex => args0 .checkTransmitIndex
  | .writePhy => argsNN .writePhy
  | .readPhy => argsN .readPhy
  | .detectPhy => args0 .detectPhy
  | .checkStatus => argsW .checkStatus
  | .setMode => argsW .setMode
  | .updateStatus => args0 .updateStatus
  | .init => argsBW .init
  | .deinit => args0 .deinit
  | .setHashFilter => argsBN .setHashFilter
  | .setupCallback => argsWC .setupCallback
  | .dispatch => args0 .dispatch
  | .crc32 => argsB .crc32
  | .memRead32 => argsW .memRead32
  | .memWrite32 => argsWW .memWrite32
  | .delayMs => argsW .delayMs
  | .beq => argsWN .beq
  | .bne => argsWN .bne
  | .jmp => argsN .jmp
  | .halt => args0 .halt

/-- The decoder of a program line (R155, R157, R160).  Total; what is no command is `illegal`. -/
def decodeLine (l : Line) : Fetched :=
  match decodeWord l.word with
  | .illegal => .illegal
  | .op o =>
    match opInstr o l.args with
    | some i => .instr i
    | none => .illegal
  | .bus .read off =>
    match l.args with
    | [] =>
      match regAt off with
      | some r => .instr (rdInstr r)
      | none => .hole .read off
    | _ => .illegal
  | .bus .write off =>
    match l.args with
    | [.num n] =>
      match u32? n, regAt off with
      | some v, some r => .instr (wrInstr r v)
      | some _, none => .hole .write off
      | none, _ => .illegal
    | _ => .illegal

/-- The command a line holds, where it holds one. -/
def decode (l : Line) : Option Instr :=
  match decodeLine l with
  | .instr i => some i
  | _ => none

/-! ### The encoder -/

/-- The program line of a command (R152, R153, R164). -/
def encode (i : Instr) : Line :=
  match i with
  | .rdMac1 => ⟨busWord .read 0x000, []⟩
  | .wrMac1 data => ⟨busWord .write 0x000, [.num data.toNat]⟩
  | .rdMac2 => ⟨busWord .read 0x004, []⟩
  | .wrMac2 data => ⟨busWord .write 0x004, [.num data.toNat]⟩
  | .rdIpgt => ⟨busWord .read 0x008, []⟩
  | .wrIpgt data => ⟨busWord .write 0x008, [.num data.toNat]⟩
  | .rdIpgr => ⟨busWord .read 0x00C, []⟩
  | .wrIpgr data => ⟨busWord .write 0x00C, [.num data.toNat]⟩
  | .rdClrt => ⟨busWord .read 0x010, []⟩
  | .wrClrt data => ⟨busWord .write 0x010, [.num data.toNat]⟩
  | .rdMaxf => ⟨busWord .read 0x014, []⟩
  | .wrMaxf data => ⟨busWord .write 0x014, [.num data.toNat]⟩
  | .rdSupp => ⟨busWord .read 0x018, []⟩
  | .wrSupp data => ⟨busWord .write 0x018, [.num data.toNat]⟩
  | .rdMcfg => ⟨busWord .read 0x020, []⟩
  | .wrMcfg data => ⟨busWord .write 0x020, [.num data.toNat]⟩
  | .rdMcmd => ⟨busWord .read 0x024, []⟩
  | .wrMcmd data => ⟨busWord .write 0x024, [.num data.toNat]⟩
  | .rdMadr => ⟨busWord .read 0x028, []⟩
  | .wrMadr data => ⟨busWord .write 0x028, [.num data.toNat]⟩
  | .rdMwtd => ⟨busWord .read 0x02C, []⟩
  | .wrMwtd data => ⟨busWord .write 0x02C, [.num data.toNat]⟩
  | .rdMrdd => ⟨busWord .read 0x030, []⟩
  | .wrMrdd data => ⟨busWord .write 0x030, [.num data.toNat]⟩
  | .rdMind => ⟨busWord .read 0x034, []⟩
  | .wrMind data => ⟨busWord .write 0x034, [.num data.toNat]⟩
  | .rdSa0 => ⟨busWord .read 0x040, []⟩
  | .wrSa0 data => ⟨busWord .write 0x040, [.num data.toNat]⟩
  | .rdSa1 => ⟨busWord .read 0x044, []⟩
  | .wrSa1 data => ⟨busWord .write 0x044, [.num data.toNat]⟩
  | .rdSa2 => ⟨busWord .read 0x048, []⟩
  | .wrSa2 data => ⟨busWord .write 0x048, [.num data.toNat]⟩
  | .rdCommand => ⟨busWord .read 0x100, []⟩
  | .wrCommand data => ⟨busWord .write 0x100, [.num data.toNat]⟩
  | .rdStatus => ⟨busWord .read 0x104, []⟩
  | .wrStatus data => ⟨busWord .write 0x104, [.num data.toNat]⟩
  | .rdRxDescriptor => ⟨busWord .read 0x108, []⟩
  | .wrRxDescriptor data => ⟨busWord .write 0x108, [.num data.toNat]⟩
  | .rdRxStatus => ⟨busWord .read 0x10C, []⟩
  | .wrRxStatus data => ⟨busWord .write 0x10C, [.num data.toNat]⟩
  | .rdRxDescriptorNumber => ⟨busWord .read 0x110, []⟩
  | .wrRxDescriptorNumber data => ⟨busWord .write 0x110, [.num data.toNat]⟩
  | .rdRxProduceIndex => ⟨busWord .read 0x114, []⟩
  | .wrRxProduceIndex data => ⟨busWord .write 0x114, [.num data.toNat]⟩
  | .rdRxConsumeIndex => ⟨busWord .read 0x118, []⟩
  | .wrRxConsumeIndex data => ⟨busWord .write 0x118, [.num data.toNat]⟩
  | .rdTxDescriptor => ⟨busWord .read 0x11C, []⟩
  | .wrTxDescriptor data => ⟨busWord .write 0x11C, [.num data.toNat]⟩
  | .rdTxStatus => ⟨busWord .read 0x120, []⟩
  | .wrTxStatus data => ⟨busWord .write 0x120, [.num data.toNat]⟩
  | .rdTxDescriptorNumber => ⟨busWord .read 0x124, []⟩
  | .wrTxDescriptorNumber data => ⟨busWord .write 0x124, [.num data.toNat]⟩
  | .rdTxProduceIndex => ⟨busWord .read 0x128, []⟩
  | .wrTxProduceIndex data => ⟨busWord .write 0x128, [.num data.toNat]⟩
  | .rdTxConsumeIndex => ⟨busWord .read 0x12C, []⟩
  | .wrTxConsumeIndex data => ⟨busWord .write 0x12C, [.num data.toNat]⟩
  | .rdRxFilterCtrl => ⟨busWord .read 0x200, []⟩
  | .wrRxFilterCtrl data => ⟨busWord .write 0x200, [.num data.toNat]⟩
  | .rdRxFilterWoLStatus => ⟨busWord .read 0x204, []⟩
  | .wrRxFilterWoLStatus data => ⟨busWord .write 0x204, [.num data.toNat]⟩
  | .rdRxFilterWoLClear => ⟨busWord .read 0x208, []⟩
  | .wrRxFilterWoLClear data => ⟨busWord .write 0x208, [.num data.toNat]⟩
  | .rdHashFilterL => ⟨busWord .read 0x210, []⟩
  | .wrHashFilterL data => ⟨busWord .write 0x210, [.num data.toNat]⟩
  | .rdHashFilterH => ⟨busWord .read 0x214, []⟩
  | .wrHashFilterH data => ⟨busWord .write 0x214, [.num data.toNat]⟩
  | .rdIntStatus => ⟨busWord .read 0xFE0, []⟩
  | .wrIntStatus data => ⟨busWord .write 0xFE0, [.num data.toNat]⟩
  | .rdIntEnable => ⟨busWord .read 0xFE4, []⟩
  | .wrIntEnable data => ⟨busWord .write 0xFE4, [.num data.toNat]⟩
  | .rdIntClear => ⟨busWord .read 0xFE8, []⟩
  | .wrIntClear data => ⟨busWord .write 0xFE8, [.num data.toNat]⟩
  | .rdIntSet => ⟨busWord .read 0xFEC, []⟩
  | .wrIntSet data => ⟨busWord .write 0xFEC, [.num data.toNat]⟩
  | .initRxRing => ⟨opWord 0x01, []⟩
  | .initTxRing => ⟨opWord 0x02, []⟩
  | .writeTxPacket src len => ⟨opWord 0x03, [.num src.toNat, .num len.toNat]⟩
  | .readRxPacket dst len => ⟨opWord 0x04, [.num dst.toNat, .num len.toNat]⟩
  | .advanceConsume => ⟨opWord 0x05, []⟩
  | .advanceProduce => ⟨opWord 0x06, []⟩
  | .checkReceiveIndex => ⟨opWord 0x07, []⟩
  | .checkTransmitIndex => ⟨opWord 0x08, []⟩
  | .writePhy reg value => ⟨opWord 0x10, [.num reg, .num value]⟩
  | .readPhy reg => ⟨opWord 0x11, [.num reg]⟩
  | .detectPhy => ⟨opWord 0x12, []⟩
  | .checkStatus kind => ⟨opWord 0x13, [.num kind.toNat]⟩
  | .setMode mode => ⟨opWord 0x14, [.num mode.toNat]⟩
  | .updateStatus => ⟨opWord 0x15, []⟩
  | .init mac mode => ⟨opWord 0x20, [.bytes mac, .num mode.toNat]⟩
  | .deinit => ⟨opWord 0x21, []⟩
  | .setHashFilter addr enable => ⟨opWord 0x22, [.bytes addr, .num enable]⟩
  | .setupCallback typeMask fn => ⟨opWord 0x30, [.num typeMask.toNat, .cb fn]⟩
  | .dispatch => ⟨opWord 0x31, []⟩
  | .crc32 data => ⟨opWord 0x40, [.bytes data]⟩
  | .memRead32 addr => ⟨opWord 0x50, [.num addr.toNat]⟩
  | .memWrite32 addr value => ⟨opWord 0x51, [.num addr.toNat, .num value.toNat]⟩
  | .delayMs n => ⟨opWord 0x52, [.num n.toNat]⟩
  | .beq imm target => ⟨opWord 0x60, [.num imm.toNat, .num target]⟩
  | .bne imm target => ⟨opWord 0x61, [.num imm.toNat, .num target]⟩
  | .jmp target => ⟨opWord 0x62, [.num target]⟩
  | .halt => ⟨opWord 0x63, []⟩

/-! ### One command word by itself -/

/-- The argument record of zeros of the command a word stands for: zeros, octets of zero, the empty list, null. -/
def zeroArgs (w : Word) : List Arg :=
  match decodeWord w with
  | .illegal => []
  | .bus .read _ => []
  | .bus .write _ => [.num 0]
  | .op o =>
    match o with
    | .writeTxPacket => [.num 0, .num 0]
    | .readRxPacket => [.num 0, .num 0]
    | .writePhy => [.num 0, .num 0]
    | .readPhy => [.num 0]
    | .checkStatus => [.num 0]
    | .setMode => [.num 0]
    | .init => [.bytes (List.replicate 6 0), .num 0]
    | .setHashFilter => [.bytes (List.replicate 6 0), .num 0]
    | .setupCallback => [.num 0, .cb none]
    | .crc32 => [.bytes []]
    | .memRead32 => [.num 0]
    | .memWrite32 => [.num 0, .num 0]
    | .delayMs => [.num 0]
    | .beq => [.num 0, .num 0]
    | .bne => [.num 0, .num 0]
    | .jmp => [.num 0]
    | _ => []

/-- The program line that a word of `nbits` bits stands for, the argument record being zeros (log entry 7). -/
def lineOfWord (nbits w : Nat) : Line :=
  let word := BitVec.ofNat 32 (w % 2 ^ nbits)
  ⟨word, zeroArgs word⟩

/-- The command the decoder reads from a command word, its argument record being zeros. -/
def decodeTableWord (nbits w : Nat) : Option Instr :=
  if w % 2 ^ nbits < 2 ^ 32 then decode (lineOfWord nbits w) else none

end Sys2Proof
end

