-- ==== Sys2Proof/Config.lean ====
section
/-!
DEFINITION. The parameters of spec/00_scope.md R6 and the free values of the model.
A parameter the spec marks OPEN is an opaque constant: no proof sees its value, only the constraint R6 puts on it.
A parameter with a default has that default (notes/assumptions/1.md).
A draw of the rules (R10) that no field of `Turn` carries is an opaque function of the step counter.
-/

namespace Sys2Proof.Config

open Sys2Proof.Machine

/-! ### Parameters with a default (R6, log entry 1, DESIGN CHOICE: the spec's own defaults) -/

/-- EMAC_BASE: the byte address of register offset 0x000. -/
def emacBase : Nat := 0x50000000

/-- MEM_BASE: the byte address of the ring memory area (R104). -/
def memBase : Nat := 0x2007C000

/-- FRAME_BUF_SIZE: the bytes of one frame buffer. -/
def frameBufSize : Nat := 1536

/-- PHY_ADDR: the MII address of the PHY. -/
def phyAddr : MiiAddr := 1

/-- MII_RETRIES: the MIND polls of one PHY read or write. -/
def miiRetries : Nat := 0x50000

/-- PHY_RESET_RETRIES: the BMCR polls after a PHY reset. -/
def phyResetRetries : Nat := 0x100000

/-- PHY_ID_MASK. -/
def phyIdMask : Word := 0xFFFFFFF0

/-- PHY_LINK_MASK. -/
def phyLinkMask : Half := 0x0004

/-- MII_TARGET_HZ. -/
def miiTargetHz : Nat := 2500000

/-- MII_DIV_TABLE. -/
def miiDivTable : List Nat := [4, 6, 8, 10, 14, 20, 28]

/-- SOFT_INT_BIT: the IntStatus bit of ordinal 8. -/
def softIntBit : Nat := 12

/-- WAKEUP_INT_BIT: the IntStatus bit of ordinal 9. -/
def wakeupIntBit : Nat := 13

/-- WOL_CLEAR_MASK. -/
def wolClearMask : Word := 0x000001BF

/-! ### OPEN parameters (R6, D6, D13, D14, D16, D19, D20, D34; log entry 2) -/

/-- The free part of N_RX. -/
opaque nRxFree : Fin 65535

/-- N_RX, 2 to 65536. -/
def nRx : Nat := nRxFree.val + 2

/-- The free part of N_TX. -/
opaque nTxFree : Fin 65535

/-- N_TX, 2 to 65536. -/
def nTx : Nat := nTxFree.val + 2

/-- LINK_RETRIES less one. -/
opaque linkRetriesFree : Nat

/-- LINK_RETRIES, at least 1. -/
def linkRetries : Nat := linkRetriesFree + 1

/-- LINK_DELAY_MS: no rule depends on it. -/
opaque linkDelayMs : Word

/-- The members of KNOWN_PHY_IDS before masking. -/
opaque knownPhyIdsFree : List Word

/-- KNOWN_PHY_IDS: each equal to itself masked by PHY_ID_MASK. -/
def knownPhyIds : List Word := knownPhyIdsFree.map (· &&& phyIdMask)

/-- PHY_SPEED100_MASK. -/
opaque phySpeed100Mask : Half

/-- PHY_FULLDUP_MASK. -/
opaque phyFullDupMask : Half

/-- CORE_CLK_HZ less one. -/
opaque coreClkHzFree : Nat

/-- CORE_CLK_HZ, at least 1. -/
def coreClkHz : Nat := coreClkHzFree + 1

/-- HASH_SETS_RFC: whether SetHashFilter sets the hash-accept bits (D6). -/
opaque hashSetsRfc : Bool

/-- SA_ORDER = REVERSED (D34). -/
opaque saReversed : Bool

/-! ### Free values (log entries 3, 4, 5) -/

/-- The free schedule: who takes the step with this number, and the environment's draws for it (R533). -/
opaque sched : Nat → Turn

/-- PHY_READ, the PHY oracle (R530): PHY address, register, history (newest event first). -/
opaque phyRead : MiiAddr → MiiAddr → List Event → Half

/-- The two drawn bits of a Status read in the step with this number (R219). -/
opaque statusBits : Nat → BitVec 2

/-- The drawn MII_LINK_FAIL bit of a MIND read in the step with this number (R217). -/
opaque miiLinkFail : Nat → Bool

/-- The draw a host read of a hardware-owned slot returns in the step with this number (R120, R240). -/
opaque hwOwnedRead : Nat → Word

/-- The draws of the excess bytes of READ_RX_PACKET's last word, in their byte lanes (R303). -/
opaque rxExcess : Nat → Word

/-- What a byte of system memory that nothing has written holds (R85, R704): one unknown byte for each address. -/
opaque resetByte : Nat → Byte

end Sys2Proof.Config
end

