-- ==== Sys2Proof/Machine/State.lean ====
section
/-!
DEFINITION. The state of the block and of its two host contexts (spec/10_state.md), the reasons a step can stop
(spec/60_exceptions.md R602) and the state after reset (spec/70_reset_and_hazards.md R700).  Plain data throughout.
-/

namespace Sys2Proof.Machine

/-! ### Registers -/

/-- The registers that store a value (R33 to R66).  MIND and Status are computed at each read; MWTD, RxFilterWoLClear,
IntClear and IntSet are write-only actions and store nothing. -/
structure Regs where
  /-- MAC1, R34 -/
  mac1 : Word
  /-- MAC2, R35 -/
  mac2 : Word
  /-- IPGT, R36 -/
  ipgt : Word
  /-- IPGR, R37 -/
  ipgr : Word
  /-- CLRT, R38 -/
  clrt : Word
  /-- MAXF, R39 -/
  maxf : Word
  /-- SUPP, R40 -/
  supp : Word
  /-- MCFG, R41 -/
  mcfg : Word
  /-- MCMD, R42 -/
  mcmd : Word
  /-- MADR, R43 -/
  madr : Word
  /-- MRDD, R45 -/
  mrdd : Word
  /-- SA0, R47 -/
  sa0 : Word
  /-- SA1, R47 -/
  sa1 : Word
  /-- SA2, R47 -/
  sa2 : Word
  /-- Command, R48 -/
  command : Word
  /-- RxDescriptor, R50 -/
  rxDescriptor : Word
  /-- RxStatus, R51 -/
  rxStatus : Word
  /-- RxDescriptorNumber, R52 -/
  rxDescriptorNumber : Word
  /-- RxProduceIndex, R53 -/
  rxProduceIndex : Word
  /-- RxConsumeIndex, R54 -/
  rxConsumeIndex : Word
  /-- TxDescriptor, R55 -/
  txDescriptor : Word
  /-- TxStatus, R56 -/
  txStatus : Word
  /-- TxDescriptorNumber, R57 -/
  txDescriptorNumber : Word
  /-- TxProduceIndex, R58 -/
  txProduceIndex : Word
  /-- TxConsumeIndex, R59 -/
  txConsumeIndex : Word
  /-- RxFilterCtrl, R60 -/
  rxFilterCtrl : Word
  /-- RxFilterWoLStatus, R61 -/
  rxFilterWoLStatus : Word
  /-- HashFilterL, R63 -/
  hashFilterL : Word
  /-- HashFilterH, R64 -/
  hashFilterH : Word
  /-- IntStatus, R65 -/
  intStatus : Word
  /-- IntEnable, R66 -/
  intEnable : Word
  deriving DecidableEq, Repr

/-- The reset values of R33. -/
def Regs.reset : Regs where
  mac1 := 0x00008000
  mac2 := 0
  ipgt := 0
  ipgr := 0
  clrt := 0x0000370F
  maxf := 0x00000600
  supp := 0
  mcfg := 0
  mcmd := 0
  madr := 0
  mrdd := 0
  sa0 := 0
  sa1 := 0
  sa2 := 0
  command := 0
  rxDescriptor := 0
  rxStatus := 0
  rxDescriptorNumber := 0
  rxProduceIndex := 0
  rxConsumeIndex := 0
  txDescriptor := 0
  txStatus := 0
  txDescriptorNumber := 0
  txProduceIndex := 0
  txConsumeIndex := 0
  rxFilterCtrl := 0
  rxFilterWoLStatus := 0
  hashFilterL := 0
  hashFilterH := 0
  intStatus := 0
  intEnable := 0

/-! ### Memory -/

/-- System memory (R100): the bytes that differ from what an unlisted address reads as, `Config.resetByte`. -/
abbrev Memory := List Host.Cell

/-- The canonical form: addresses strictly rise, and no entry equals what its address reads as unlisted. -/
abbrev Memory.wf (m : Memory) : Prop :=
  m.Pairwise (fun x y => x.1 < y.1) ∧ ∀ c ∈ m, c.2 ≠ Config.resetByte c.1

/-! ### The sequencers -/

/-- The MII sequencer (R71). -/
inductive Mii where
  | idle
  | read (phy reg : MiiAddr)
  | write (phy reg : MiiAddr) (data : Half)
  deriving DecidableEq, Repr

/-- The MAC engine's state machine (R79, R401). -/
inductive Drv where
  | uninitialized
  | resetting
  | phyDetect
  | phyConfiguring
  | ringInit
  | enabled
  | phyDetectFailed
  | phyResetTimeout
  | phyConfigFailed
  deriving DecidableEq, Repr

/-- The result of the last UpdateStatus (R79). -/
inductive Link where
  | unknown
  | up
  | down
  deriving DecidableEq, Repr

/-! ### Operations in progress

An OP is a sequence of micro-steps (R7).  Where an OP stands is a stack of frames, the innermost operation first: the top
frame is the next micro-step, and a frame below it says what the calling operation does with the result (R14).
-/

/-- One micro-step of a straight-line part of an operation. -/
inductive Micro where
  /-- `BusWrite` -/
  | write (r : Reg) (v : Word)
  /-- the read step of `BusSetBits` (R165) -/
  | setBits (r : Reg) (m : Word)
  /-- the read step of `BusClrBits` (R165) -/
  | clrBits (r : Reg) (m : Word)
  /-- a 4-byte `MemWrite` -/
  | memWrite (a : Nat) (v : Word)
  /-- `delay(n)` (R10, R712) -/
  | delay
  /-- DEINIT's `powered <- 0` (R404) -/
  | powerOff
  deriving DecidableEq, Repr

/-- One frame of an operation in progress.  A frame whose docstring says `awaits` takes the result of the frame above it
by internal computation only; every other frame is a micro-step. -/
inductive OpFrame where
  /-- a straight-line part; its result is 0 -/
  | seq (ms : List Micro)
  /-- INIT_RX_RING's read of Command (R300) -/
  | initRx
  /-- awaits the end of INIT_RX_RING's writes -/
  | rxDone
  /-- INIT_TX_RING's read of Command (R301) -/
  | initTx
  /-- awaits the end of INIT_TX_RING's writes -/
  | txDone
  /-- WRITE_TX_PACKET's read of the PACKET word of slot p (R302) -/
  | txPkt (p src len : Nat)
  /-- WRITE_TX_PACKET's read of caller word j -/
  | txRead (pkt p src len j : Nat)
  /-- WRITE_TX_PACKET's write of buffer word j -/
  | txWrite (pkt p src len j : Nat) (w : Word)
  /-- WRITE_TX_PACKET's write of the CONTROL word -/
  | txCtl (p len : Nat)
  /-- READ_RX_PACKET's read of the PACKET word of slot c (R303) -/
  | rxPkt (c dst len : Nat)
  /-- READ_RX_PACKET's read of buffer word j -/
  | rxRead (pkt dst len j : Nat)
  /-- READ_RX_PACKET's write of caller word j -/
  | rxWrite (pkt dst len j : Nat) (w : Word)
  /-- CHECK_RECEIVE_INDEX's read of RxProduceIndex (R306) -/
  | chkRx (c : Nat)
  /-- CHECK_TRANSMIT_INDEX's read of TxProduceIndex (R307) -/
  | chkTx (c : Nat)
  /-- WRITE_PHY's write of MADR (R353) -/
  | wpMadr (reg : MiiAddr) (value : Half)
  /-- WRITE_PHY's write of MWTD -/
  | wpMwtd (value : Half)
  /-- WRITE_PHY's read of MIND, with `left` reads after it -/
  | wpPoll (left : Nat)
  /-- READ_PHY's write of MADR (R354) -/
  | rpMadr (reg : MiiAddr)
  /-- READ_PHY's write of 1 to MCMD -/
  | rpMcmd
  /-- READ_PHY's read of MIND, with `left` reads after it -/
  | rpPoll (left : Nat)
  /-- READ_PHY's write of 0 to MCMD -/
  | rpClear
  /-- READ_PHY's read of MRDD -/
  | rpData
  /-- DETECT_PHY awaits the first identity word (R355) -/
  | detect1
  /-- DETECT_PHY awaits the second identity word -/
  | detect2 (id1 : Word)
  /-- CHECK_STATUS awaits the basic-status word (R356) -/
  | checkStatus (kind : Word)
  /-- SET_MODE awaits the result of its PHY write (R357) -/
  | setMode
  /-- UPDATE_STATUS awaits a link poll, with `left` polls after it (R359) -/
  | updLink (left : Nat)
  /-- UPDATE_STATUS's delay after a failed poll -/
  | updDelay (left : Nat)
  /-- UPDATE_STATUS awaits the duplex status -/
  | updDup
  /-- UPDATE_STATUS awaits the speed status, having the duplex status -/
  | updSpeed (d : Word)
  /-- UPDATE_STATUS awaits the end of MAC_CONFIGURE (R361) -/
  | linkUp
  /-- INIT awaits the result of the PHY reset write (R400) -/
  | initWritten (mac : List Byte) (mode : Word)
  /-- INIT awaits a BMCR poll, with `left` polls after it -/
  | initPoll (mac : List Byte) (mode : Word) (left : Nat)
  /-- INIT awaits DETECT_PHY -/
  | initDetected (mac : List Byte) (mode : Word)
  /-- INIT awaits SET_MODE -/
  | initMode (mac : List Byte)
  /-- INIT awaits the end of the station address writes -/
  | initRing
  /-- INIT awaits the end of its last writes -/
  | initEnd (linkDown : Bool)
  /-- DEINIT awaits the end of its writes (R404) -/
  | deinitDone
  deriving DecidableEq, Repr

/-- Where the IRQ agent stands in DISPATCH (R80, R453). -/
inductive IrqPos where
  /-- the head of the loop: the read of IntStatus -/
  | start
  /-- the read of IntEnable, having read `s` from IntStatus -/
  | readEnable (s : Word)
  /-- the write of IntClear -/
  | clear
  /-- inside the body of the callback of an ordinal (R456): its program counter and its OP in progress -/
  | body (ordinal : Fin 10) (id : CallbackId) (pc : Nat) (op : List OpFrame)
  /-- the write of RxFilterWoLClear (R457) -/
  | wolClear
  /-- the interrupt return (R607) -/
  | done
  deriving DecidableEq, Repr

/-- The IRQ agent (R80): idle, or servicing the batch `st` at a position. -/
inductive Irq where
  | idle
  | running (st : Word) (pos : IrqPos)
  deriving DecidableEq, Repr

/-! ### The state -/

/-- The whole state.  Fields marked MODEL are the model's own, the others are the spec's. -/
structure State where
  /-- the registers (R33) -/
  regs : Regs
  /-- clock and power (R70) -/
  powered : Bool
  /-- the MII sequencer (R71) -/
  mii : Mii
  /-- the callback table (R72) -/
  cb : Vector (Option CallbackId) 10
  /-- the RX ring-initialised mark (R78) -/
  rxRingInit : Bool
  /-- the TX ring-initialised mark (R78) -/
  txRingInit : Bool
  /-- the MAC engine's state machine (R79) -/
  drv : Drv
  /-- the link state (R79) -/
  link : Link
  /-- the IRQ agent (R80) -/
  irq : Irq
  /-- a received frame is unfinished (R81) -/
  rxMidFrame : Bool
  /-- the bytes of that frame still to deposit (R501) -/
  rxRemain : List Byte
  /-- that frame's destination address, error attributes and FAIL_FILTER, for its last fragment (R503) -/
  rxDa : Vector Byte 6
  rxErr : BitVec 7
  rxFail : Bool
  /-- system memory (R100) -/
  mem : Memory
  /-- the FG program (R552); a parameter, changed by no step -/
  prog : List Line
  /-- the callback bodies (R456, R552), indexed by id; a parameter, changed by no step -/
  bodies : List (List Line)
  /-- FG's program counter (R551) -/
  pc : Nat
  /-- FG's result register (R550) -/
  ret : Word
  /-- FG's operation in progress (R84); empty between commands -/
  fgOp : List OpFrame
  /-- FG has executed HALT (R556) -/
  halted : Bool
  /-- IRQ's result register (R550) -/
  irqRet : Word
  /-- the event history (R84), newest event first -/
  hist : List Event
  /-- MODEL: who takes the next step, with the environment's draws for it (log entry 3) -/
  turn : Turn
  /-- MODEL: the number of the next step, which the free schedule and the free draws are applied to (log entry 3) -/
  tick : Nat
  deriving DecidableEq, Repr

/-! ### How a step can stop -/

/-- What a fault keeps (R602): the agent, the command, where in it (the frames of its operation and, for the IRQ agent, the
position in DISPATCH), the offset or address involved, and the history (R84), which a step that faults extends by the fault itself
(`Fault.recorded`).  The rest of the faulted state is the state before the step. -/
structure FaultSite where
  agent : Agent
  command : Option Line
  op : List OpFrame
  irq : Irq
  addr : Option Nat
  hist : List Event
  deriving DecidableEq, Repr

/-- The fault reasons of R602, a closed list.  All are safe: the model stops where the spec gives no behaviour or says that
software broke a duty (log entry 14).  The class R602 gives each is `Fault.cls`. -/
inductive Fault where
  /-- a bus transaction while `powered = 0` (R200); safe -/
  | unpowered (site : FaultSite)
  /-- an illegal command word, an ill-formed argument record, a label out of range (R154, R157, R552); safe -/
  | illegalCommand (site : FaultSite)
  /-- a BUS offset outside the register map (R160); safe -/
  | unmapped (site : FaultSite)
  /-- an out-of-scope register (R160), an MCMD write with SCAN set (R214); safe -/
  | refused (site : FaultSite)
  /-- a write to a read-only register (R202); safe -/
  | roWrite (site : FaultSite)
  /-- a read of a write-only register (R202); safe -/
  | woRead (site : FaultSite)
  /-- an MII register write while a cycle is in flight (R211, R212, R213, R215), or a PHY operation of a callback between
  the two writes of a PHY access of FG (R708, log entry 28); safe -/
  | miiBusyOverlap (site : FaultSite)
  /-- starting an MII cycle while RESET_MII_MGMT is 1 (R211, R212); safe -/
  | miiInReset (site : FaultSite)
  /-- a misaligned ring base, memory access or caller buffer (R221, R240, R241, R302, R303); safe -/
  | misaligned (site : FaultSite)
  /-- a memory access in the register window (R240, R241, R309) or past the top of the address space (log entry 12); safe -/
  | badAddress (site : FaultSite)
  /-- an index moved past the other side's (R222, R223), a write to a hardware-owned slot (R120, R241); safe -/
  | ownershipViolation (site : FaultSite)
  /-- a packet operation before the ring's INIT (R302, R303); safe -/
  | ringNotInitialised (site : FaultSite)
  /-- WRITE_TX_PACKET with no free slot (R302); safe -/
  | txRingFull (site : FaultSite)
  /-- READ_RX_PACKET with no filled slot (R303); safe -/
  | rxRingEmpty (site : FaultSite)
  /-- a packet length outside the buffer (R302, R303); safe -/
  | lengthOutOfRange (site : FaultSite)
  /-- an index or ring size that leaves an index outside the ring (R221, R222, R223); safe -/
  | indexOutOfRange (site : FaultSite)
  /-- a ring geometry change while its datapath is enabled (R221, R300, R301); safe -/
  | ringConfigWhileEnabled (site : FaultSite)
  /-- DISPATCH by FG or by a callback body, a foreground command in a callback body (R163, R452, R456); safe -/
  | forbiddenInContext (site : FaultSite)
  /-- INIT while `drv` is not Uninitialized (R400); safe -/
  | initWithoutDeinit (site : FaultSite)
  deriving DecidableEq, Repr

/-- The class of a fault reason (R602). -/
inductive FaultClass where
  | chip
  | duty
  | refusal
  deriving DecidableEq, Repr

/-- What the model gives no meaning to by name. -/
inductive Refusal where
  /-- raised by `exec` alone, for a command that has no meaning yet; safe.  No command is left. -/
  | notModelled (mnemonic : String)
  deriving DecidableEq, Repr

/-- What one step, or one command, answers. -/
abbrev Outcome := Host.Outcome State Fault Refusal

/-- The state after reset (R85, R700).  Model fields and what the spec gives no reset value: log entries 3, 6, 17. -/
def State.reset : State where
  regs := Regs.reset
  powered := false
  mii := .idle
  cb := Vector.replicate 10 none
  rxRingInit := false
  txRingInit := false
  drv := .uninitialized
  link := .unknown
  irq := .idle
  rxMidFrame := false
  rxRemain := []
  rxDa := Vector.replicate 6 0
  rxErr := 0
  rxFail := false
  mem := []
  prog := []
  bodies := []
  pc := 0
  ret := 0
  fgOp := []
  halted := false
  irqRet := 0
  hist := []
  turn := .fg
  tick := 0

end Sys2Proof.Machine
end

