-- ==== Sys2Proof/Machine/Memory.lean ====
section
/-!
DEFINITION. System memory as bytes (spec/20_memory.md R100, R101, R103): reading and writing one byte, and the
little-endian 32-bit word built from four of them.  The canonical form is kept by every write.
-/

namespace Sys2Proof.Machine

/-- One byte (R101).  An unlisted address reads as the free value of its address (R85, log entry 5). -/
def Memory.read : Memory → Nat → Byte
  | [], a => Config.resetByte a
  | (k, b) :: m, a => if k = a then b else Memory.read m a

/-- List byte `b` at address `a`, in address order. -/
def Memory.insert (a : Nat) (b : Byte) : Memory → Memory
  | [] => [(a, b)]
  | (k, c) :: m =>
    if k < a then (k, c) :: Memory.insert a b m
    else if k = a then (a, b) :: m
    else (a, b) :: (k, c) :: m

/-- Write one byte (R101); a byte equal to what its address reads as unlisted is not listed. -/
def Memory.write (a : Nat) (b : Byte) (m : Memory) : Memory :=
  if b = Config.resetByte a then m.filter (fun c => c.1 ≠ a) else Memory.insert a b m

/-- Byte `k` of a word, k = 0 the least significant (R101). -/
def byteOf (v : Word) (k : Nat) : Byte := v.extractLsb' (8 * k) 8

/-- `MemRead(a, 4)` (R101): little-endian. -/
def Memory.readWord (m : Memory) (a : Nat) : Word :=
  Memory.read m (a + 3) ++ Memory.read m (a + 2) ++ Memory.read m (a + 1) ++ Memory.read m a

/-- `MemWrite(a, 4, v)` (R101): little-endian. -/
def Memory.writeWord (a : Nat) (v : Word) (m : Memory) : Memory :=
  Memory.write (a + 3) (byteOf v 3) (Memory.write (a + 2) (byteOf v 2)
    (Memory.write (a + 1) (byteOf v 1) (Memory.write a (byteOf v 0) m)))

end Sys2Proof.Machine
end

