-- ==== Sys2Proof/Machine/Operands.lean ====
section
/-!
DEFINITION. The operand forms and the fixed tables the operations take their values from: the address map of the ring
memory area (spec/20_memory.md R104), the octets of the station address (spec/10_state.md R47), the mode and status codes
(spec/42_phy.md R358, spec/60_exceptions.md R601), the target ordinal of a registration (spec/44_dispatch.md R451) and the
MII clock selection (spec/43_mac.md R402).
-/

namespace Sys2Proof.Machine

/-! ### The ring memory area (R104, R108) -/

/-- RX_DESC_BASE. -/
def rxDescBase : Nat := Config.memBase

/-- RX_STAT_BASE. -/
def rxStatBase : Nat := rxDescBase + 8 * Config.nRx

/-- TX_DESC_BASE. -/
def txDescBase : Nat := rxStatBase + 8 * Config.nRx

/-- TX_STAT_BASE. -/
def txStatBase : Nat := txDescBase + 8 * Config.nTx

/-- RX_BUF_BASE. -/
def rxBufBase : Nat := txStatBase + 4 * Config.nTx

/-- TX_BUF_BASE. -/
def txBufBase : Nat := rxBufBase + Config.frameBufSize * Config.nRx

/-- RX_BUF(i). -/
def rxBuf (i : Nat) : Nat := rxBufBase + Config.frameBufSize * i

/-- TX_BUF(i). -/
def txBuf (i : Nat) : Nat := txBufBase + Config.frameBufSize * i

/-- The end of the ring memory area. -/
def ringAreaEnd : Nat := txBufBase + Config.frameBufSize * Config.nTx

/-- The `n` bytes from `a` lie in DMA_REGION, the ring memory area (R108). -/
def inDmaRegion (a n : Nat) : Bool := Config.memBase ≤ a && a + n ≤ ringAreaEnd

/-- The number of words of a copy of `len` bytes, rounded up (R302, R303). -/
def wordCount (len : Nat) : Nat := (len + 3) / 4

/-- The mask of the low `k` bytes of a word, k < 4. -/
def lowBytes (k : Nat) : Word := BitVec.ofNat 32 (2 ^ (8 * k) - 1)

/-! ### Bits, octets and words -/

/-- A word with only bit `i` set. -/
def bitMask (i : Nat) : Word := 1#32 <<< i

/-- A Boolean as bit `i` of a word. -/
def bitIf (b : Bool) (i : Nat) : Word := if b then bitMask i else 0

/-- A number as a word. -/
def word (n : Nat) : Word := BitVec.ofNat 32 n

/-- The low 16 bits of a word, a ring index (R53, R54, R58, R59). -/
def idx (w : Word) : Nat := (w.extractLsb' 0 16).toNat

/-- `(a - b) mod n` on the integers (R9), for n > 0. -/
def subMod (a b n : Nat) : Nat := (a + (n - b % n)) % n

/-- Two octets in a station address register: `hi` in bits 15:8 (R47). -/
def octetPair (hi lo : Byte) : Word := (hi ++ lo).setWidth 32

/-- Octet `k` of a list of octets. -/
def octet (bs : List Byte) (k : Nat) : Byte := bs.getD k 0

/-- The value SET_STATION_ADDRESS writes to SA`k` (R403). -/
def saValue (mac : List Byte) (k : Nat) : Word :=
  if Config.saReversed then octetPair (octet mac (5 - 2 * k)) (octet mac (4 - 2 * k))
  else octetPair (octet mac (2 * k)) (octet mac (2 * k + 1))

/-- The six octets the station address registers hold, octet 0 first (R47). -/
def stationOctets (r : Regs) : List Byte :=
  let forward := [r.sa0.extractLsb' 8 8, r.sa0.extractLsb' 0 8, r.sa1.extractLsb' 8 8, r.sa1.extractLsb' 0 8,
    r.sa2.extractLsb' 8 8, r.sa2.extractLsb' 0 8]
  if Config.saReversed then forward.reverse else forward

/-! ### Codes -/

/-- OK (R601). -/
def codeOk : Word := 0

/-- TIMEOUT, and the sentinel −1 of the PHY primitives (R601). -/
def codeTimeout : Word := 0xFFFFFFFF

/-- PHY_RESET_TIMEOUT (R601). -/
def codePhyResetTimeout : Word := 0xFFFFFFFE

/-- UNKNOWN_PHY (R601). -/
def codeUnknownPhy : Word := 0xFFFFFFFD

/-- UNSUPPORTED_MODE (R601). -/
def codeUnsupportedMode : Word := 0xFFFFFFFC

/-- LINK_DOWN (R601). -/
def codeLinkDown : Word := 0xFFFFFFFB

/-- BMCR_VALUE[mode] (R358); `none` for a mode code outside 0..4. -/
def bmcrValue (mode : Word) : Option Half :=
  match mode.toNat with
  | 0 => some 0x3000
  | 1 => some 0x0100
  | 2 => some 0x0000
  | 3 => some 0x2100
  | 4 => some 0x2000
  | _ => none

/-- The BMSR mask of a kind code (R356); `none` for an unrecognised kind. -/
def statusMask (kind : Word) : Option Half :=
  match kind.toNat with
  | 0 => some Config.phyLinkMask
  | 1 => some Config.phySpeed100Mask
  | 2 => some Config.phyFullDupMask
  | _ => none

/-- The smallest index of an entry of the divider table that reaches the ratio; the length if there is none (R402). -/
def dividerIndex (ratio : Nat) : List Nat → Nat
  | [] => 0
  | t :: ts => if t ≥ ratio then 0 else dividerIndex ratio ts + 1

/-- MII_CLOCK_SELECT (R402) for a core clock. -/
def clockSelect (coreHz : Nat) : Nat := dividerIndex (coreHz / Config.miiTargetHz) Config.miiDivTable + 1

/-! ### Ordinals (R69, R451) -/

/-- The IntStatus bit of an ordinal (R69). -/
def bitOf (n : Fin 10) : Nat :=
  if n.val ≤ 7 then n.val else if n = 8 then Config.softIntBit else Config.wakeupIntBit

/-- The ordinals in the order in which registration looks at them and the dispatcher serves them. -/
def ordinals : List (Fin 10) := [0, 1, 2, 3, 4, 5, 6, 7, 8, 9]

/-- MASK_ORDINAL (R451). -/
def maskOrdinal (m : Word) : Option (Fin 10) := ordinals.find? (fun n => m.getLsbD (bitOf n))

end Sys2Proof.Machine
end

