-- ==== Sys2Proof/Machine/Flags.lean ====
section
/-!
DEFINITION. The status bits the block computes: the defined interrupt bits and the interrupt line (spec/60_exceptions.md
R604), the MII indicators (spec/40_bus.md R217), access rights (R202), the reason and class of a fault and its entry in the history
(R602, spec/10_state.md R84), and the fullness and ownership of the rings (spec/10_state.md R77, spec/20_memory.md R120).  The block
has no condition codes (R32).
-/

namespace Sys2Proof.Machine

/-- INT_DEFINED_MASK (R65). -/
def intDefinedMask : Word := 0x000000FF ||| bitMask Config.softIntBit ||| bitMask Config.wakeupIntBit

/-- IRQ_LINE (R604). -/
def irqLine (s : State) : Bool :=
  s.powered && (s.regs.intStatus &&& s.regs.intEnable &&& intDefinedMask) != 0

/-- A management cycle is in flight: MIND.BUSY (R46, R71). -/
def Mii.busy : Mii → Bool
  | .idle => false
  | _ => true

/-- A management read cycle is in flight: MIND.NOT_VALID (R46). -/
def Mii.reading : Mii → Bool
  | .read _ _ => true
  | _ => false

/-- What a read of MIND returns (R217); bit 3 is a draw. -/
def mindValue (s : State) : Word :=
  bitIf s.mii.busy 0 ||| bitIf s.mii.reading 2 ||| bitIf (Config.miiLinkFail s.tick) 3

/-- What a read of Status returns (R219): two draws. -/
def statusValue (s : State) : Word := (Config.statusBits s.tick).setWidth 32

/-- The read-only registers (R33, R202). -/
def regReadOnly : Reg → Bool
  | .mrdd | .mind | .status | .rxProduceIndex | .txConsumeIndex | .rxFilterWoLStatus | .intStatus => true
  | _ => false

/-- The write-only registers (R33, R202). -/
def regWriteOnly : Reg → Bool
  | .mwtd | .rxFilterWoLClear | .intClear | .intSet => true
  | _ => false

/-! ### Faults (R602) -/

/-- The class of a fault reason (R602). -/
def FaultReason.cls : FaultReason → FaultClass
  | .unpowered => .chip
  | .illegalCommand => .refusal
  | .unmapped => .refusal
  | .refused => .refusal
  | .roWrite => .chip
  | .woRead => .chip
  | .miiBusyOverlap => .duty
  | .miiInReset => .chip
  | .misaligned => .chip
  | .badAddress => .refusal
  | .ownershipViolation => .duty
  | .ringNotInitialised => .duty
  | .txRingFull => .duty
  | .rxRingEmpty => .duty
  | .lengthOutOfRange => .duty
  | .indexOutOfRange => .chip
  | .ringConfigWhileEnabled => .chip
  | .forbiddenInContext => .duty
  | .initWithoutDeinit => .duty

/-- The reason of a fault. -/
def Fault.reason : Fault → FaultReason
  | .unpowered _ => .unpowered
  | .illegalCommand _ => .illegalCommand
  | .unmapped _ => .unmapped
  | .refused _ => .refused
  | .roWrite _ => .roWrite
  | .woRead _ => .woRead
  | .miiBusyOverlap _ => .miiBusyOverlap
  | .miiInReset _ => .miiInReset
  | .misaligned _ => .misaligned
  | .badAddress _ => .badAddress
  | .ownershipViolation _ => .ownershipViolation
  | .ringNotInitialised _ => .ringNotInitialised
  | .txRingFull _ => .txRingFull
  | .rxRingEmpty _ => .rxRingEmpty
  | .lengthOutOfRange _ => .lengthOutOfRange
  | .indexOutOfRange _ => .indexOutOfRange
  | .ringConfigWhileEnabled _ => .ringConfigWhileEnabled
  | .forbiddenInContext _ => .forbiddenInContext
  | .initWithoutDeinit _ => .initWithoutDeinit

/-- What a fault keeps. -/
def Fault.site : Fault → FaultSite
  | .unpowered x => x
  | .illegalCommand x => x
  | .unmapped x => x
  | .refused x => x
  | .roWrite x => x
  | .woRead x => x
  | .miiBusyOverlap x => x
  | .miiInReset x => x
  | .misaligned x => x
  | .badAddress x => x
  | .ownershipViolation x => x
  | .ringNotInitialised x => x
  | .txRingFull x => x
  | .rxRingEmpty x => x
  | .lengthOutOfRange x => x
  | .indexOutOfRange x => x
  | .ringConfigWhileEnabled x => x
  | .forbiddenInContext x => x
  | .initWithoutDeinit x => x

/-- The class of a fault (R602). -/
def Fault.cls (f : Fault) : FaultClass := f.reason.cls

/-- Append a fault to the history its site keeps (R84). -/
def FaultSite.record (r : FaultReason) (x : FaultSite) : FaultSite := { x with hist := .fault x.agent r x.addr :: x.hist }

/-- The fault as the step that raises it answers it: recorded in the history (R84). -/
def Fault.recorded : Fault → Fault
  | .unpowered x => .unpowered (x.record .unpowered)
  | .illegalCommand x => .illegalCommand (x.record .illegalCommand)
  | .unmapped x => .unmapped (x.record .unmapped)
  | .refused x => .refused (x.record .refused)
  | .roWrite x => .roWrite (x.record .roWrite)
  | .woRead x => .woRead (x.record .woRead)
  | .miiBusyOverlap x => .miiBusyOverlap (x.record .miiBusyOverlap)
  | .miiInReset x => .miiInReset (x.record .miiInReset)
  | .misaligned x => .misaligned (x.record .misaligned)
  | .badAddress x => .badAddress (x.record .badAddress)
  | .ownershipViolation x => .ownershipViolation (x.record .ownershipViolation)
  | .ringNotInitialised x => .ringNotInitialised (x.record .ringNotInitialised)
  | .txRingFull x => .txRingFull (x.record .txRingFull)
  | .rxRingEmpty x => .rxRingEmpty (x.record .rxRingEmpty)
  | .lengthOutOfRange x => .lengthOutOfRange (x.record .lengthOutOfRange)
  | .indexOutOfRange x => .indexOutOfRange (x.record .indexOutOfRange)
  | .ringConfigWhileEnabled x => .ringConfigWhileEnabled (x.record .ringConfigWhileEnabled)
  | .forbiddenInContext x => .forbiddenInContext (x.record .forbiddenInContext)
  | .initWithoutDeinit x => .initWithoutDeinit (x.record .initWithoutDeinit)

/-! ### Rings (R52, R57, R77) -/

/-- NR, the hardware's RX ring size (R52). -/
def State.nr (s : State) : Nat := idx s.regs.rxDescriptorNumber + 1

/-- NT, the hardware's TX ring size (R57). -/
def State.nt (s : State) : Nat := idx s.regs.txDescriptorNumber + 1

/-- The receive datapath is enabled: Command.RX_ENABLE (R48). -/
def State.rxOn (s : State) : Bool := s.regs.command.getLsbD 0

/-- The transmit datapath is enabled: Command.TX_ENABLE (R48). -/
def State.txOn (s : State) : Bool := s.regs.command.getLsbD 1

/-- The RX ring is full: `(P + 1) mod NR = C` (R77). -/
def State.rxFull (s : State) : Bool := (idx s.regs.rxProduceIndex + 1) % s.nr == idx s.regs.rxConsumeIndex

/-! ### Ownership (R120; log entries 9, 10, 11, 26) -/

/-- RX slot `i` is owned by the hardware: it is not one of the filled slots C to P − 1. -/
def rxSlotHw (s : State) (i : Nat) : Bool :=
  let c := idx s.regs.rxConsumeIndex
  !(subMod i c s.nr < subMod (idx s.regs.rxProduceIndex) c s.nr)

/-- TX slot `i` is owned by the hardware: it is one of the queued slots C to P − 1. -/
def txSlotHw (s : State) (i : Nat) : Bool :=
  let c := idx s.regs.txConsumeIndex
  subMod i c s.nt < subMod (idx s.regs.txProduceIndex) c s.nt

/-- The four bytes from `a` meet the `n` bytes from `lo`. -/
def meets (a lo n : Nat) : Bool := a < lo + n && lo < a + 4

/-- An access at `a` meets a ring slot: its descriptor, its status entry of `st` bytes or its frame buffer.  DESIGN CHOICE (log
entry 26): a descriptor whose address lies past 2^32 or in the register window is in no memory (R100), and the spec gives its slot no
frame buffer; its PACKET word here is read as memory that nothing has written, the free value `Config.resetByte` of the address, which
is not wrapped; nor is the extent of a frame buffer that runs past 2^32, whose bytes past it are no memory. -/
def meetsSlot (s : State) (a desc stat st : Nat) : Bool :=
  meets a desc 8 || meets a stat st || meets a (Memory.readWord s.mem desc).toNat Config.frameBufSize

/-- An access at `a` meets a hardware-owned slot of the RX ring while RX is enabled. -/
def rxOwned (s : State) (a : Nat) : Bool :=
  s.rxOn && (List.range s.nr).any fun i =>
    rxSlotHw s i && meetsSlot s a (s.regs.rxDescriptor.toNat + 8 * i) (s.regs.rxStatus.toNat + 8 * i) 8

/-- An access at `a` meets a hardware-owned slot of the TX ring while TX is enabled. -/
def txOwned (s : State) (a : Nat) : Bool :=
  s.txOn && (List.range s.nt).any fun i =>
    txSlotHw s i && meetsSlot s a (s.regs.txDescriptor.toNat + 8 * i) (s.regs.txStatus.toNat + 4 * i) 4

/-- An access at `a` meets a hardware-owned slot of a ring whose datapath is enabled (R120, R240, R241). -/
def hwOwned (s : State) (a : Nat) : Bool := rxOwned s a || txOwned s a

end Sys2Proof.Machine
end

