-- ==== Sys2Proof/Machine/Ops.lean ====
section
/-!
DEFINITION. The named operations every meaning is written with: where an agent stands in its program (spec/47_program.md),
bus transactions (spec/40_bus.md R200 to R232), host memory accesses (R240, R241, spec/41_ring.md R309), the end of a
command, interrupt entry and interrupt return (spec/60_exceptions.md R605 to R607).
-/

namespace Sys2Proof.Machine

/-! ### Where the running agent stands -/

/-- The host context that runs: IRQ once entered, else FG (R606, R609). -/
def State.agent (s : State) : Agent :=
  match s.irq with
  | .idle => .fg
  | .running _ _ => .irq

/-- The body of a callback (R456).  An id for which no body is given has the empty body (log entry 6). -/
def bodyOf (s : State) (id : CallbackId) : List Line := s.bodies.getD id []

/-- The program the running agent executes: FG's, or the body of the running callback. -/
def curProg (s : State) : List Line :=
  match s.irq with
  | .running _ (.body _ id _ _) => bodyOf s id
  | .running _ _ => []
  | .idle => s.prog

/-- The running agent's program counter (R551). -/
def curPc (s : State) : Nat :=
  match s.irq with
  | .running _ (.body _ _ pc _) => pc
  | _ => s.pc

/-- The running agent's operation in progress (R84). -/
def curOp (s : State) : List OpFrame :=
  match s.irq with
  | .running _ (.body _ _ _ op) => op
  | .running _ _ => []
  | .idle => s.fgOp

/-- The running agent's result register (R550). -/
def curRet (s : State) : Word :=
  match s.irq with
  | .running _ _ => s.irqRet
  | .idle => s.ret

/-- The command of the DISPATCH operation, the IRQ agent's whole program (R452). -/
def dispatchLine : Line := ⟨opWord 0x31, []⟩

/-- The command the running agent executes. -/
def curLine (s : State) : Option Line :=
  match s.irq with
  | .running _ (.body _ _ _ _) => (curProg s)[curPc s]?
  | .running _ _ => some dispatchLine
  | .idle => s.prog[s.pc]?

/-- What a fault raised now keeps (R602); the history up to it (R84). -/
def State.site (s : State) (addr : Option Nat) : FaultSite where
  agent := s.agent
  command := curLine s
  op := curOp s
  irq := s.irq
  addr := addr
  hist := s.hist

/-- Append an event to the history (R84). -/
def State.log (e : Event) (s : State) : State := { s with hist := e :: s.hist }

/-! ### Bus transactions -/

/-- The registers at offset 0x100 and above at their reset values (REG_RESET, R220). -/
def Regs.resetHigh (r : Regs) : Regs :=
  { Regs.reset with
    mac1 := r.mac1, mac2 := r.mac2, ipgt := r.ipgt, ipgr := r.ipgr, clrt := r.clrt, maxf := r.maxf, supp := r.supp,
    mcfg := r.mcfg, mcmd := r.mcmd, madr := r.madr, mrdd := r.mrdd, sa0 := r.sa0, sa1 := r.sa1, sa2 := r.sa2 }

/-- The registers after a write of `v` to Command: the reset actions, then the stored bits (R220). -/
def commandRegs (v : Word) (r : Regs) : Regs :=
  let r1 := if v.getLsbD 3 then r.resetHigh else r
  let r2 := if v.getLsbD 5 then { r1 with rxProduceIndex := 0 } else r1
  let r3 := if v.getLsbD 4 then { r2 with txConsumeIndex := 0 } else r2
  { r3 with command := v &&& 0x000007C3 }

/-- The value a read of a register returns (R204 to R230).  A write-only register has none; its read faults. -/
def readReg (r : Reg) (s : State) : Word :=
  match r with
  | .mac1 => s.regs.mac1
  | .mac2 => s.regs.mac2
  | .ipgt => s.regs.ipgt
  | .ipgr => s.regs.ipgr
  | .clrt => s.regs.clrt
  | .maxf => s.regs.maxf
  | .supp => s.regs.supp
  | .mcfg => s.regs.mcfg
  | .mcmd => s.regs.mcmd
  | .madr => s.regs.madr
  | .mwtd => 0
  | .mrdd => s.regs.mrdd
  | .mind => mindValue s
  | .sa0 => s.regs.sa0
  | .sa1 => s.regs.sa1
  | .sa2 => s.regs.sa2
  | .command => s.regs.command
  | .status => statusValue s
  | .rxDescriptor => s.regs.rxDescriptor
  | .rxStatus => s.regs.rxStatus
  | .rxDescriptorNumber => s.regs.rxDescriptorNumber
  | .rxProduceIndex => s.regs.rxProduceIndex
  | .rxConsumeIndex => s.regs.rxConsumeIndex
  | .txDescriptor => s.regs.txDescriptor
  | .txStatus => s.regs.txStatus
  | .txDescriptorNumber => s.regs.txDescriptorNumber
  | .txProduceIndex => s.regs.txProduceIndex
  | .txConsumeIndex => s.regs.txConsumeIndex
  | .rxFilterCtrl => s.regs.rxFilterCtrl
  | .rxFilterWoLStatus => s.regs.rxFilterWoLStatus
  | .rxFilterWoLClear => 0
  | .hashFilterL => s.regs.hashFilterL
  | .hashFilterH => s.regs.hashFilterH
  | .intStatus => s.regs.intStatus
  | .intEnable => s.regs.intEnable
  | .intClear => 0
  | .intSet => 0

/-- The registers after an accepted write (R204 to R232): the write masks, the reset actions and the clearing and setting
registers. -/
def writeRegs (r : Reg) (v : Word) (regs : Regs) : Regs :=
  match r with
  | .mac1 => { regs with mac1 := v &&& 0x0000CF1F }
  | .mac2 => { regs with mac2 := v &&& 0x000073FF }
  | .ipgt => { regs with ipgt := v &&& 0x0000007F }
  | .ipgr => { regs with ipgr := v &&& 0x00007F7F }
  | .clrt => { regs with clrt := v &&& 0x00003F0F }
  | .maxf => { regs with maxf := v &&& 0x0000FFFF }
  | .supp => { regs with supp := v &&& 0x00000900 }
  | .mcfg => { regs with mcfg := v &&& 0x0000803F }
  | .mcmd => { regs with mcmd := v &&& 0x00000001 }
  | .madr => { regs with madr := v &&& 0x00001F1F }
  | .mwtd => regs
  | .mrdd => regs
  | .mind => regs
  | .sa0 => { regs with sa0 := v &&& 0x0000FFFF }
  | .sa1 => { regs with sa1 := v &&& 0x0000FFFF }
  | .sa2 => { regs with sa2 := v &&& 0x0000FFFF }
  | .command => commandRegs v regs
  | .status => regs
  | .rxDescriptor => { regs with rxDescriptor := v &&& 0xFFFFFFFC }
  | .rxStatus => { regs with rxStatus := v &&& 0xFFFFFFF8 }
  | .rxDescriptorNumber => { regs with rxDescriptorNumber := v &&& 0x0000FFFF }
  | .rxProduceIndex => regs
  | .rxConsumeIndex => { regs with rxConsumeIndex := v &&& 0x0000FFFF }
  | .txDescriptor => { regs with txDescriptor := v &&& 0xFFFFFFFC }
  | .txStatus => { regs with txStatus := v &&& 0xFFFFFFFC }
  | .txDescriptorNumber => { regs with txDescriptorNumber := v &&& 0x0000FFFF }
  | .txProduceIndex => { regs with txProduceIndex := v &&& 0x0000FFFF }
  | .txConsumeIndex => regs
  | .rxFilterCtrl => { regs with rxFilterCtrl := v &&& 0x0000303F }
  | .rxFilterWoLStatus => regs
  | .rxFilterWoLClear => { regs with rxFilterWoLStatus := regs.rxFilterWoLStatus &&& ~~~(v &&& 0x000001BF) }
  | .hashFilterL => { regs with hashFilterL := v }
  | .hashFilterH => { regs with hashFilterH := v }
  | .intStatus => regs
  | .intEnable => { regs with intEnable := v &&& intDefinedMask }
  | .intClear => { regs with intStatus := regs.intStatus &&& ~~~(v &&& intDefinedMask) }
  | .intSet => { regs with intStatus := regs.intStatus ||| (v &&& intDefinedMask) }

/-- The MII cycle an accepted write starts (R211, R212). -/
def writeMii (r : Reg) (v : Word) (s : State) : Mii :=
  match r with
  | .mwtd => .write (s.regs.madr.extractLsb' 8 5) (s.regs.madr.extractLsb' 0 5) (v.extractLsb' 0 16)
  | .mcmd =>
    if s.regs.mcmd.getLsbD 0 = false ∧ v.getLsbD 0 = true then
      .read (s.regs.madr.extractLsb' 8 5) (s.regs.madr.extractLsb' 0 5)
    else s.mii
  | _ => s.mii

/-- An accepted write ends the received frame in progress: REG_RESET or RX_RESET (R220). -/
def endsFrame (r : Reg) (v : Word) : Bool :=
  match r with
  | .command => v.getLsbD 3 || v.getLsbD 5
  | _ => false

/-- The register's own checks of a write, in the order of its rule (R211 to R215, R221 to R223); `none` accepts.
What R708 adds for a PHY operation of a callback that splits FG's is `State.phySplit`. -/
def writeCheck (r : Reg) (v : Word) (s : State) : Option (FaultSite → Fault) :=
  match r with
  | .mwtd =>
    if s.mii.busy then some .miiBusyOverlap
    else if s.regs.mcfg.getLsbD 15 then some .miiInReset
    else none
  | .mcmd =>
    if v.getLsbD 1 then some .refused
    else if s.mii.busy then some .miiBusyOverlap
    else if s.regs.mcmd.getLsbD 0 = false ∧ v.getLsbD 0 = true ∧ s.regs.mcfg.getLsbD 15 = true then some .miiInReset
    else none
  | .mcfg => if s.mii.busy then some .miiBusyOverlap else none
  | .madr => if s.mii.busy then some .miiBusyOverlap else none
  | .rxDescriptor =>
    if s.rxOn then some .ringConfigWhileEnabled
    else if v.extractLsb' 0 2 ≠ 0#2 then some .misaligned
    else none
  | .rxStatus =>
    if s.rxOn then some .ringConfigWhileEnabled
    else if v.extractLsb' 0 3 ≠ 0#3 then some .misaligned
    else none
  | .rxDescriptorNumber =>
    if s.rxOn then some .ringConfigWhileEnabled
    else if s.regs.rxProduceIndex.toNat > idx v ∨ s.regs.rxConsumeIndex.toNat > idx v then some .indexOutOfRange
    else none
  | .txDescriptor =>
    if s.txOn then some .ringConfigWhileEnabled
    else if v.extractLsb' 0 2 ≠ 0#2 then some .misaligned
    else none
  | .txStatus =>
    if s.txOn then some .ringConfigWhileEnabled
    else if v.extractLsb' 0 2 ≠ 0#2 then some .misaligned
    else none
  | .txDescriptorNumber =>
    if s.txOn then some .ringConfigWhileEnabled
    else if s.regs.txProduceIndex.toNat > idx v ∨ s.regs.txConsumeIndex.toNat > idx v then some .indexOutOfRange
    else none
  | .rxConsumeIndex =>
    if idx v ≥ s.nr then some .indexOutOfRange
    else if s.rxOn ∧
        subMod (idx v) (idx s.regs.rxConsumeIndex) s.nr > subMod (idx s.regs.rxProduceIndex) (idx s.regs.rxConsumeIndex) s.nr
      then some .ownershipViolation
    else none
  | .txProduceIndex =>
    if idx v ≥ s.nt then some .indexOutOfRange
    else if s.txOn ∧
        subMod (idx v) (idx s.regs.txProduceIndex) s.nt >
          subMod (idx s.regs.txConsumeIndex) (idx s.regs.txProduceIndex + 1) s.nt
      then some .ownershipViolation
    else none
  | _ => none

/-- The state after an accepted write, before its event is logged. -/
def writeEffect (r : Reg) (v : Word) (s : State) : State :=
  { s with
    regs := writeRegs r v s.regs
    mii := writeMii r v s
    rxMidFrame := if endsFrame r v then false else s.rxMidFrame
    rxRemain := if endsFrame r v then [] else s.rxRemain }

/-- `BusRead` (R203): the checks in order, then the value and the event. -/
def busRead (r : Reg) (s : State) : Except Fault (Word × State) :=
  if s.powered = false then .error (.unpowered (s.site (some r.offset.toNat)))
  else if regWriteOnly r then .error (.woRead (s.site (some r.offset.toNat)))
  else .ok (readReg r s, s.log (.bus s.agent r.offset .read (readReg r s)))

/-- `BusWrite` (R203): the checks in order, then the effect and the event. -/
def busWrite (r : Reg) (v : Word) (s : State) : Except Fault State :=
  if s.powered = false then .error (.unpowered (s.site (some r.offset.toNat)))
  else if regReadOnly r then .error (.roWrite (s.site (some r.offset.toNat)))
  else
    match writeCheck r v s with
    | some f => .error (f (s.site (some r.offset.toNat)))
    | none => .ok ((writeEffect r v s).log (.bus s.agent r.offset .write v))

/-- FG stands between the MADR write of a PHY access and the MWTD or MCMD write that starts its cycle (R353, R354). -/
def betweenPhyWrites : List OpFrame → Bool
  | .wpMwtd _ :: _ => true
  | .rpMcmd :: _ => true
  | _ => false

/-- A PHY access that a callback's operation starts now would overlap FG's (R708, last sentence). -/
def State.phySplit (s : State) : Bool := s.powered && decide (s.agent = .irq) && betweenPhyWrites s.fgOp

/-! ### Host memory accesses (R240, R241, R309) -/

/-- The checks every 4-byte access makes: alignment, then the register window and the address space (log entry 12). -/
def memCheck (a : Nat) : Option (FaultSite → Fault) :=
  if a % 4 ≠ 0 then some .misaligned
  else if (a < Config.emacBase + 0x1000 ∧ Config.emacBase ≤ a + 3) ∨ 2 ^ 32 ≤ a then some .badAddress
  else none

/-- The value a host read returns: a draw for a hardware-owned slot of an enabled ring (R120). -/
def hostValue (s : State) (a : Nat) : Word :=
  if hwOwned s a then Config.hwOwnedRead s.tick else Memory.readWord s.mem a

/-- A 4-byte `MemRead` by the running agent. -/
def hostRead (a : Nat) (s : State) : Except Fault (Word × State) :=
  match memCheck a with
  | some f => .error (f (s.site (some a)))
  | none => .ok (hostValue s a, s.log (.mem s.agent a 4 .read (hostValue s a)))

/-- A 4-byte `MemWrite` by the running agent. -/
def hostWrite (a : Nat) (v : Word) (s : State) : Except Fault State :=
  match memCheck a with
  | some f => .error (f (s.site (some a)))
  | none =>
    if hwOwned s a then .error (.ownershipViolation (s.site (some a)))
    else .ok ({ s with mem := Memory.writeWord a v s.mem }.log (.mem s.agent a 4 .write v))

/-! ### The dispatcher's position (R453, R456) -/

/-- Put the dispatcher at a position of the batch `st`. -/
def State.setIrq (st : Word) (pos : IrqPos) (s : State) : State := { s with irq := .running st pos }

/-- Continue DISPATCH at the check of the first of the ordinals `ns` (R453, internal): invoke the next registered callback
whose bit is in the batch; a body without a line ends at once (R556).  After the last of them comes the wake-up bit. -/
def scan : List (Fin 10) → Word → State → State
  | [], st, s => if st.getLsbD Config.wakeupIntBit then s.setIrq st .wolClear else s.setIrq st .start
  | n :: ns, st, s =>
    if st.getLsbD (bitOf n) then
      match s.cb[n] with
      | some id =>
        if bodyOf s id = [] then scan ns st (s.log (.invoke n id))
        else (s.log (.invoke n id)).setIrq st (.body n id 0 [])
      | none => scan ns st s
    else scan ns st s

/-- The ordinals checked before the wake-up bit. -/
def batchOrdinals : List (Fin 10) := [0, 1, 2, 3, 4, 5, 6, 7, 8]

/-- The callback body of ordinal `n` has ended (R456): DISPATCH continues after it. -/
def leaveBody (st : Word) (n : Fin 10) (s : State) : State :=
  if n = 9 then s.setIrq st .start else scan (batchOrdinals.filter (fun k => n < k)) st s

/-- After the wake clear (R457): the callback of ordinal 9, then the head of the loop. -/
def enterWake (st : Word) (s : State) : State :=
  match s.cb[(9 : Fin 10)] with
  | some id =>
    if bodyOf s id = [] then (s.log (.invoke 9 id)).setIrq st .start
    else (s.log (.invoke 9 id)).setIrq st (.body 9 id 0 [])
  | none => s.setIrq st .start

/-! ### The end of a command (R550, R551, R556) -/

/-- `pc <- target` of the running agent, no operation being in progress.  A callback body ends at its length. -/
def goTo (target : Nat) (s : State) : State :=
  match s.irq with
  | .idle => { s with pc := target, fgOp := [] }
  | .running st (.body n id _ _) =>
    if target < (bodyOf s id).length then s.setIrq st (.body n id target []) else leaveBody st n s
  | .running _ _ => s

/-- `pc <- pc + 1` (R551): the last micro-step of a command that is not a branch. -/
def State.next (s : State) : State := goTo (curPc s + 1) s

/-- `ret <- v` of the running agent (R550). -/
def putRet (v : Word) (s : State) : State :=
  match s.irq with
  | .idle => { s with ret := v }
  | .running _ _ => { s with irqRet := v }

/-- A command ends with result `v`. -/
def State.finish (v : Word) (s : State) : State := (putRet v s).next

/-- The running agent is inside an operation, at the given frames. -/
def putOp (fs : List OpFrame) (s : State) : State :=
  match s.irq with
  | .idle => { s with fgOp := fs }
  | .running st (.body n id pc _) => s.setIrq st (.body n id pc fs)
  | .running _ _ => s

/-- HALT (R556): FG stops for good; a callback body ends.  FG's `pc` stays at the HALT line (DEDUCED, log entry 29). -/
def haltAgent (s : State) : State :=
  match s.irq with
  | .idle => { s with halted := true, fgOp := [] }
  | .running st (.body n _ _ _) => leaveBody st n s
  | .running _ _ => s

/-! ### The interrupt (R605, R606, R607): the block's only exception entry and return -/

/-- Interrupt entry (R605): DISPATCH starts at its first line, and nothing else changes (R606). -/
def takeInterrupt (s : State) : State := { s with irq := .running 0 .start }

/-- Interrupt return (R607): nothing was saved, so nothing is restored. -/
def returnInterrupt (s : State) : State := { s with irq := .idle }

/-! ### Answers -/

/-- A command that ends in this step with a result. -/
def answer (r : Except Fault (Word × State)) : Outcome :=
  match r with
  | .error f => .fault f
  | .ok (v, t) => .next (t.finish v)

/-- A command that ends in this step and leaves `ret`. -/
def answerKeep (r : Except Fault State) : Outcome :=
  match r with
  | .error f => .fault f
  | .ok t => .next t.next

/-- An ill-formed command (R157). -/
def illegal (s : State) : Outcome := .fault (.illegalCommand (s.site none))

end Sys2Proof.Machine
end

