-- ==== Sys2Proof/Machine/Bus.lean ====
section
/-!
DEFINITION. The meanings of the BUS commands (spec/40_bus.md R200 to R232), one for each direction of each in-scope register,
and of the host primitives MEM_READ32, MEM_WRITE32 and DELAY_MS (R240 to R242).  Every BUS meaning is one bus transaction,
`busRead` or `busWrite`, which hold the checks and the effects.
-/

namespace Sys2Proof.Machine

/-- RD MAC1 (R204). -/
def execRdMac1 (s : State) : Outcome := answer (busRead .mac1 s)

/-- WR MAC1 (R204). -/
def execWrMac1 (data : Word) (s : State) : Outcome := answerKeep (busWrite .mac1 data s)

/-- RD MAC2 (R205). -/
def execRdMac2 (s : State) : Outcome := answer (busRead .mac2 s)

/-- WR MAC2 (R205). -/
def execWrMac2 (data : Word) (s : State) : Outcome := answerKeep (busWrite .mac2 data s)

/-- RD IPGT (R206). -/
def execRdIpgt (s : State) : Outcome := answer (busRead .ipgt s)

/-- WR IPGT (R206). -/
def execWrIpgt (data : Word) (s : State) : Outcome := answerKeep (busWrite .ipgt data s)

/-- RD IPGR (R207). -/
def execRdIpgr (s : State) : Outcome := answer (busRead .ipgr s)

/-- WR IPGR (R207). -/
def execWrIpgr (data : Word) (s : State) : Outcome := answerKeep (busWrite .ipgr data s)

/-- RD CLRT (R208). -/
def execRdClrt (s : State) : Outcome := answer (busRead .clrt s)

/-- WR CLRT (R208). -/
def execWrClrt (data : Word) (s : State) : Outcome := answerKeep (busWrite .clrt data s)

/-- RD MAXF (R209). -/
def execRdMaxf (s : State) : Outcome := answer (busRead .maxf s)

/-- WR MAXF (R209). -/
def execWrMaxf (data : Word) (s : State) : Outcome := answerKeep (busWrite .maxf data s)

/-- RD SUPP (R210). -/
def execRdSupp (s : State) : Outcome := answer (busRead .supp s)

/-- WR SUPP (R210). -/
def execWrSupp (data : Word) (s : State) : Outcome := answerKeep (busWrite .supp data s)

/-- RD MCFG (R213). -/
def execRdMcfg (s : State) : Outcome := answer (busRead .mcfg s)

/-- WR MCFG (R213). -/
def execWrMcfg (data : Word) (s : State) : Outcome := answerKeep (busWrite .mcfg data s)

/-- RD MCMD (R212). -/
def execRdMcmd (s : State) : Outcome := answer (busRead .mcmd s)

/-- WR MCMD (R212, R214). -/
def execWrMcmd (data : Word) (s : State) : Outcome := answerKeep (busWrite .mcmd data s)

/-- RD MADR (R215). -/
def execRdMadr (s : State) : Outcome := answer (busRead .madr s)

/-- WR MADR (R215). -/
def execWrMadr (data : Word) (s : State) : Outcome := answerKeep (busWrite .madr data s)

/-- RD MWTD (R202, R161). -/
def execRdMwtd (s : State) : Outcome := answer (busRead .mwtd s)

/-- WR MWTD (R211). -/
def execWrMwtd (data : Word) (s : State) : Outcome := answerKeep (busWrite .mwtd data s)

/-- RD MRDD (R216). -/
def execRdMrdd (s : State) : Outcome := answer (busRead .mrdd s)

/-- WR MRDD (R202, R161). -/
def execWrMrdd (data : Word) (s : State) : Outcome := answerKeep (busWrite .mrdd data s)

/-- RD MIND (R217). -/
def execRdMind (s : State) : Outcome := answer (busRead .mind s)

/-- WR MIND (R202, R161). -/
def execWrMind (data : Word) (s : State) : Outcome := answerKeep (busWrite .mind data s)

/-- RD SA0 (R218). -/
def execRdSa0 (s : State) : Outcome := answer (busRead .sa0 s)

/-- WR SA0 (R218). -/
def execWrSa0 (data : Word) (s : State) : Outcome := answerKeep (busWrite .sa0 data s)

/-- RD SA1 (R218). -/
def execRdSa1 (s : State) : Outcome := answer (busRead .sa1 s)

/-- WR SA1 (R218). -/
def execWrSa1 (data : Word) (s : State) : Outcome := answerKeep (busWrite .sa1 data s)

/-- RD SA2 (R218). -/
def execRdSa2 (s : State) : Outcome := answer (busRead .sa2 s)

/-- WR SA2 (R218). -/
def execWrSa2 (data : Word) (s : State) : Outcome := answerKeep (busWrite .sa2 data s)

/-- RD Command (R220). -/
def execRdCommand (s : State) : Outcome := answer (busRead .command s)

/-- WR Command (R220). -/
def execWrCommand (data : Word) (s : State) : Outcome := answerKeep (busWrite .command data s)

/-- RD Status (R219). -/
def execRdStatus (s : State) : Outcome := answer (busRead .status s)

/-- WR Status (R202, R161). -/
def execWrStatus (data : Word) (s : State) : Outcome := answerKeep (busWrite .status data s)

/-- RD RxDescriptor (R221). -/
def execRdRxDescriptor (s : State) : Outcome := answer (busRead .rxDescriptor s)

/-- WR RxDescriptor (R221). -/
def execWrRxDescriptor (data : Word) (s : State) : Outcome := answerKeep (busWrite .rxDescriptor data s)

/-- RD RxStatus (R221). -/
def execRdRxStatus (s : State) : Outcome := answer (busRead .rxStatus s)

/-- WR RxStatus (R221). -/
def execWrRxStatus (data : Word) (s : State) : Outcome := answerKeep (busWrite .rxStatus data s)

/-- RD RxDescriptorNumber (R221). -/
def execRdRxDescriptorNumber (s : State) : Outcome := answer (busRead .rxDescriptorNumber s)

/-- WR RxDescriptorNumber (R221). -/
def execWrRxDescriptorNumber (data : Word) (s : State) : Outcome := answerKeep (busWrite .rxDescriptorNumber data s)

/-- RD RxProduceIndex (R224). -/
def execRdRxProduceIndex (s : State) : Outcome := answer (busRead .rxProduceIndex s)

/-- WR RxProduceIndex (R202, R161). -/
def execWrRxProduceIndex (data : Word) (s : State) : Outcome := answerKeep (busWrite .rxProduceIndex data s)

/-- RD RxConsumeIndex (R222). -/
def execRdRxConsumeIndex (s : State) : Outcome := answer (busRead .rxConsumeIndex s)

/-- WR RxConsumeIndex (R222). -/
def execWrRxConsumeIndex (data : Word) (s : State) : Outcome := answerKeep (busWrite .rxConsumeIndex data s)

/-- RD TxDescriptor (R221). -/
def execRdTxDescriptor (s : State) : Outcome := answer (busRead .txDescriptor s)

/-- WR TxDescriptor (R221). -/
def execWrTxDescriptor (data : Word) (s : State) : Outcome := answerKeep (busWrite .txDescriptor data s)

/-- RD TxStatus (R221). -/
def execRdTxStatus (s : State) : Outcome := answer (busRead .txStatus s)

/-- WR TxStatus (R221). -/
def execWrTxStatus (data : Word) (s : State) : Outcome := answerKeep (busWrite .txStatus data s)

/-- RD TxDescriptorNumber (R221). -/
def execRdTxDescriptorNumber (s : State) : Outcome := answer (busRead .txDescriptorNumber s)

/-- WR TxDescriptorNumber (R221). -/
def execWrTxDescriptorNumber (data : Word) (s : State) : Outcome := answerKeep (busWrite .txDescriptorNumber data s)

/-- RD TxProduceIndex (R223). -/
def execRdTxProduceIndex (s : State) : Outcome := answer (busRead .txProduceIndex s)

/-- WR TxProduceIndex (R223). -/
def execWrTxProduceIndex (data : Word) (s : State) : Outcome := answerKeep (busWrite .txProduceIndex data s)

/-- RD TxConsumeIndex (R224). -/
def execRdTxConsumeIndex (s : State) : Outcome := answer (busRead .txConsumeIndex s)

/-- WR TxConsumeIndex (R202, R161). -/
def execWrTxConsumeIndex (data : Word) (s : State) : Outcome := answerKeep (busWrite .txConsumeIndex data s)

/-- RD RxFilterCtrl (R225). -/
def execRdRxFilterCtrl (s : State) : Outcome := answer (busRead .rxFilterCtrl s)

/-- WR RxFilterCtrl (R225). -/
def execWrRxFilterCtrl (data : Word) (s : State) : Outcome := answerKeep (busWrite .rxFilterCtrl data s)

/-- RD RxFilterWoLStatus (R226). -/
def execRdRxFilterWoLStatus (s : State) : Outcome := answer (busRead .rxFilterWoLStatus s)

/-- WR RxFilterWoLStatus (R202, R161). -/
def execWrRxFilterWoLStatus (data : Word) (s : State) : Outcome := answerKeep (busWrite .rxFilterWoLStatus data s)

/-- RD RxFilterWoLClear (R202, R161). -/
def execRdRxFilterWoLClear (s : State) : Outcome := answer (busRead .rxFilterWoLClear s)

/-- WR RxFilterWoLClear (R227). -/
def execWrRxFilterWoLClear (data : Word) (s : State) : Outcome := answerKeep (busWrite .rxFilterWoLClear data s)

/-- RD HashFilterL (R228). -/
def execRdHashFilterL (s : State) : Outcome := answer (busRead .hashFilterL s)

/-- WR HashFilterL (R228). -/
def execWrHashFilterL (data : Word) (s : State) : Outcome := answerKeep (busWrite .hashFilterL data s)

/-- RD HashFilterH (R228). -/
def execRdHashFilterH (s : State) : Outcome := answer (busRead .hashFilterH s)

/-- WR HashFilterH (R228). -/
def execWrHashFilterH (data : Word) (s : State) : Outcome := answerKeep (busWrite .hashFilterH data s)

/-- RD IntStatus (R229). -/
def execRdIntStatus (s : State) : Outcome := answer (busRead .intStatus s)

/-- WR IntStatus (R202, R161). -/
def execWrIntStatus (data : Word) (s : State) : Outcome := answerKeep (busWrite .intStatus data s)

/-- RD IntEnable (R230). -/
def execRdIntEnable (s : State) : Outcome := answer (busRead .intEnable s)

/-- WR IntEnable (R230). -/
def execWrIntEnable (data : Word) (s : State) : Outcome := answerKeep (busWrite .intEnable data s)

/-- RD IntClear (R202, R161). -/
def execRdIntClear (s : State) : Outcome := answer (busRead .intClear s)

/-- WR IntClear (R231). -/
def execWrIntClear (data : Word) (s : State) : Outcome := answerKeep (busWrite .intClear data s)

/-- RD IntSet (R202, R161). -/
def execRdIntSet (s : State) : Outcome := answer (busRead .intSet s)

/-- WR IntSet (R232). -/
def execWrIntSet (data : Word) (s : State) : Outcome := answerKeep (busWrite .intSet data s)

/-- MEM_READ32 (R240). -/
def execMemRead32 (addr : Word) (s : State) : Outcome := answer (hostRead addr.toNat s)

/-- MEM_WRITE32 (R241). -/
def execMemWrite32 (addr value : Word) (s : State) : Outcome := answerKeep (hostWrite addr.toNat value s)

/-- DELAY_MS (R242): nothing but its event. -/
def execDelayMs (n : Word) (s : State) : Outcome := .next (s.log (.delayMs n)).next

end Sys2Proof.Machine
end

