-- ==== Sys2Proof/Machine/Control.lean ====
section
/-!
DEFINITION. The meanings of the program-control commands (spec/47_program.md R552 to R556).  Each is one step.
-/

namespace Sys2Proof.Machine

/-- BEQ (R553). -/
def execBeq (imm : Word) (target : Nat) (s : State) : Outcome :=
  if isLabel (curProg s).length target then .next (if curRet s = imm then goTo target s else s.next) else illegal s

/-- BNE (R554). -/
def execBne (imm : Word) (target : Nat) (s : State) : Outcome :=
  if isLabel (curProg s).length target then .next (if curRet s ≠ imm then goTo target s else s.next) else illegal s

/-- JMP (R555). -/
def execJmp (target : Nat) (s : State) : Outcome :=
  if isLabel (curProg s).length target then .next (goTo target s) else illegal s

/-- HALT (R556). -/
def execHalt (s : State) : Outcome := .next (haltAgent s)

end Sys2Proof.Machine
end

