-- ==== Sys2Proof/Machine/Crc.lean ====
section
/-!
DEFINITION. The CRC-32 hash engine (spec/45_crc.md): the bit-serial register of R480, the nibble form of R481, the hash index
of R482, and the CRC32 command.
-/

namespace Sys2Proof.Machine

/-- One bit-step (R480): the data bit enters at the top, the polynomial 0x04C11DB7 is added on feedback 1. -/
def crcBit (c : Word) (d : Bool) : Word :=
  (c <<< 1) ^^^ (if c.getLsbD 31 ^^ d then 0x04C11DB7#32 else 0#32)

/-- The eight bit-steps of one byte, least significant bit first (R480). -/
def crcByte (c : Word) (b : Byte) : Word :=
  [0, 1, 2, 3, 4, 5, 6, 7].foldl (fun acc j => crcBit acc (b.getLsbD j)) c

/-- CRC32 (R480): initial value all ones, no final complement, no reversal. -/
def crc32 (bs : List Byte) : Word := bs.foldl crcByte 0xFFFFFFFF#32

/-- One nibble-step (R481): a shift by four and the polynomial at each shift whose feedback is 1. -/
def crcNibble (c : Word) (b : BitVec 4) : Word :=
  (c <<< 4) ^^^ (if c.getLsbD 28 ^^ b.getLsbD 3 then 0x04C11DB7#32 else 0#32)
    ^^^ (if c.getLsbD 29 ^^ b.getLsbD 2 then 0x09823B6E#32 else 0#32)
    ^^^ (if c.getLsbD 30 ^^ b.getLsbD 1 then 0x130476DC#32 else 0#32)
    ^^^ (if c.getLsbD 31 ^^ b.getLsbD 0 then 0x2608EDB8#32 else 0#32)

/-- The nibble form of one byte (R481): low nibble first. -/
def crcByteNibbles (c : Word) (b : Byte) : Word :=
  crcNibble (crcNibble c (b.extractLsb' 0 4)) (b.extractLsb' 4 4)

/-- HASH_INDEX (R482): bits 28:23. -/
def hashIndex (c : Word) : Nat := (c.extractLsb' 23 6).toNat

/-- HT[i] (R83). -/
def hashBit (r : Regs) (i : Nat) : Bool :=
  if i < 32 then r.hashFilterL.getLsbD i else r.hashFilterH.getLsbD (i - 32)

/-- CRC32 (R480): one internal step; it touches no register and no memory. -/
def execCrc32 (data : List Byte) (s : State) : Outcome := .next (s.finish (crc32 data))

end Sys2Proof.Machine
end

