-- ==== Sys2Proof/Machine/Sequences.lean ====
section
/-!
DEFINITION. The straight-line parts of the operations, as lists of micro-steps, and the internal computations on their
results (spec/41_ring.md, spec/42_phy.md, spec/43_mac.md).
-/

namespace Sys2Proof.Machine

/-! ### Rings (R300, R301) -/

/-- The four words INIT_RX_RING writes for descriptor `i` (R300). -/
def rxSlotWrites (i : Nat) : List Micro :=
  [.memWrite (rxDescBase + 8 * i) (word (rxBuf i)),
   .memWrite (rxDescBase + 8 * i + 4) (0x80000000#32 ||| word (Config.frameBufSize - 1)),
   .memWrite (rxStatBase + 8 * i) 0,
   .memWrite (rxStatBase + 8 * i + 4) 0]

/-- INIT_RX_RING after its check (R300). -/
def rxRingSeq : List Micro :=
  (List.range Config.nRx).flatMap rxSlotWrites ++
  [.write .rxDescriptor (word rxDescBase), .write .rxStatus (word rxStatBase),
   .write .rxDescriptorNumber (word (Config.nRx - 1)), .write .rxConsumeIndex 0]

/-- The three words INIT_TX_RING writes for descriptor `i` (R301). -/
def txSlotWrites (i : Nat) : List Micro :=
  [.memWrite (txDescBase + 8 * i) (word (txBuf i)),
   .memWrite (txDescBase + 8 * i + 4) 0,
   .memWrite (txStatBase + 4 * i) 0]

/-- INIT_TX_RING after its check (R301). -/
def txRingSeq : List Micro :=
  (List.range Config.nTx).flatMap txSlotWrites ++
  [.write .txDescriptor (word txDescBase), .write .txStatus (word txStatBase),
   .write .txDescriptorNumber (word (Config.nTx - 1)), .write .txProduceIndex 0]

/-- The CONTROL word of WRITE_TX_PACKET: `(len - 1) | INT | LAST` (R302). -/
def txControl (len : Nat) : Word := word (len - 1) ||| 0xC0000000#32

/-- The word READ_RX_PACKET writes for word `j`: past `len` its bytes are draws (R303). -/
def rxCopyWord (len j : Nat) (draw w : Word) : Word :=
  if j + 1 = wordCount len ∧ len % 4 ≠ 0 then
    (w &&& lowBytes (len % 4)) ||| (draw &&& ~~~ lowBytes (len % 4))
  else w

/-! ### PHY (R352 to R361) -/

/-- The MADR value of an access to PHY register `reg` (R352). -/
def madrValue (reg : MiiAddr) : Word := (Config.phyAddr.setWidth 32 <<< 8) ||| reg.setWidth 32

/-- DETECT_PHY's result from the two identity words (R355). -/
def detectResult (id1 id2 : Word) : Word :=
  if id1 = codeTimeout ∨ id2 = codeTimeout then codeUnknownPhy
  else if ((id1 <<< 16) ||| id2) &&& Config.phyIdMask ∈ Config.knownPhyIds then codeOk
  else codeUnknownPhy

/-- CHECK_STATUS's result from the basic-status word (R356). -/
def statusResult (kind r : Word) : Word :=
  match statusMask kind with
  | none => codeTimeout
  | some mask =>
    if r = codeTimeout then codeTimeout
    else if r &&& mask.setWidth 32 ≠ 0 then 1 else 0

/-- MAC_CONFIGURE (R361). -/
def macConfigure (full fast : Bool) : List Micro :=
  (if full then [.setBits .mac2 0x0001, .setBits .command 0x0400, .write .ipgt 0x15]
   else [.clrBits .mac2 0x0001, .clrBits .command 0x0400, .write .ipgt 0x12]) ++
  [.write .supp (if fast then 0x0100 else 0x0000)]

/-! ### MAC (R400 to R406) -/

/-- INIT from the soft reset to the RMII reset pulse (R400). -/
def initHead : List Micro :=
  [.write .mac1 0xCF00, .write .command 0x0078, .delay,
   .write .mac1 0x0002, .write .mac2 0x0030, .write .maxf 0x0600,
   .write .mcfg (word (clockSelect Config.coreClkHz) <<< 2 ||| 0x8000#32), .clrBits .mcfg 0x8000,
   .write .clrt 0x370F, .write .ipgr 0x0C12,
   .write .command 0x0240, .write .supp 0x0800, .delay, .write .supp 0x0000]

/-- SET_STATION_ADDRESS (R403). -/
def stationSeq (mac : List Byte) : List Micro :=
  [.write .sa0 (saValue mac 0), .write .sa1 (saValue mac 1), .write .sa2 (saValue mac 2)]

/-- INIT after ring initialisation (R400). -/
def initTail : List Micro :=
  [.write .rxFilterCtrl 0x0026, .write .intEnable 0x0088, .write .intClear 0xFFFF,
   .setBits .command 0x0003, .setBits .mac1 0x0001]

/-- DEINIT's steps on a powered block (R404). -/
def deinitSeq : List Micro :=
  [.write .intEnable 0, .write .intClear intDefinedMask, .powerOff]

/-- SET_HASH_FILTER's steps (R405, R406). -/
def hashFilterSeq (addr : List Byte) (enable : Bool) : List Micro :=
  let i := hashIndex (crc32 addr)
  let reg : Reg := if i ≥ 32 then .hashFilterH else .hashFilterL
  let mask := bitMask (if i ≥ 32 then i - 32 else i)
  (if enable then [.setBits reg mask] else [.clrBits reg mask]) ++ [.clrBits .command 0x0080] ++
  (if Config.hashSetsRfc then [.setBits .rxFilterCtrl 0x0018] else [])

end Sys2Proof.Machine
end

