-- ==== Sys2Proof/Machine/Engine.lean ====
section
/-!
DEFINITION. The engine of the operations (spec/00_scope.md R7, R14): `resume` hands the result of an operation to the frames
below it by internal computation, `microStep` executes one micro-step.  The pseudocode of spec/41_ring.md, 42_phy.md and
43_mac.md is in these two functions and in Sequences.lean.
-/

namespace Sys2Proof.Machine

/-- After a micro-step: the frames still to run, or the result of the finished operation. -/
inductive Cont where
  | run (fs : List OpFrame)
  | ret (v : Word)
  deriving DecidableEq, Repr

/-- The frames of READ_PHY (R354). -/
def readPhyFrames (reg : MiiAddr) : List OpFrame := [.rpMadr reg]

/-- The frames of WRITE_PHY (R353). -/
def writePhyFrames (reg : MiiAddr) (value : Half) : List OpFrame := [.wpMadr reg value]

/-- The frames of DETECT_PHY (R355). -/
def detectFrames : List OpFrame := [.rpMadr 2, .detect1]

/-- The frames of CHECK_STATUS (R356). -/
def checkStatusFrames (kind : Word) : List OpFrame := [.rpMadr 1, .checkStatus kind]

/-- The frames of UPDATE_STATUS before its first link poll (R359). -/
def updateStatusFrames : List OpFrame := [.rpMadr 1, .checkStatus 0, .updLink (Config.linkRetries - 1)]

/-- The frames of SET_MODE of a supported mode (R357). -/
def setModeFrames (bmcr : Half) : List OpFrame := [.wpMadr 0 bmcr, .setMode]

/-- Hand result `v` to the frames `fs` (R14): internal computation up to the next micro-step or the end. -/
def resume (v : Word) : List OpFrame → State → State × Cont
  | [], s => (s, .ret v)
  | f :: fs, s =>
    match f with
    | .rxDone => resume 0 fs { s with rxRingInit := true }
    | .txDone => resume 0 fs { s with txRingInit := true }
    | .detect1 => (s, .run (readPhyFrames 3 ++ .detect2 v :: fs))
    | .detect2 id1 => resume (detectResult id1 v) fs s
    | .checkStatus kind => resume (statusResult kind v) fs s
    | .setMode => if v = codeTimeout then resume codeTimeout fs s else (s, .run (updateStatusFrames ++ fs))
    | .updLink left =>
      if v = 1 then (s, .run (checkStatusFrames 2 ++ .updDup :: fs)) else (s, .run (.updDelay left :: fs))
    | .updDup => (s, .run (checkStatusFrames 1 ++ .updSpeed v :: fs))
    | .updSpeed d =>
      if d = codeTimeout ∨ v = codeTimeout then resume codeTimeout fs s
      else (s, .run (.seq (macConfigure (d == 1) (v == 1)) :: .linkUp :: fs))
    | .linkUp => resume codeOk fs { s with link := .up }
    | .initWritten mac mode =>
      if v = codeTimeout then resume codePhyResetTimeout fs { s with drv := .phyResetTimeout }
      else (s, .run (readPhyFrames 0 ++ .initPoll mac mode (Config.phyResetRetries - 1) :: fs))
    | .initPoll mac mode left =>
      if v ≠ codeTimeout ∧ v &&& 0x8800#32 = 0 then
        ({ s with drv := .phyDetect }, .run (detectFrames ++ .initDetected mac mode :: fs))
      else
        match left with
        | 0 => resume codePhyResetTimeout fs { s with drv := .phyResetTimeout }
        | left + 1 => (s, .run (readPhyFrames 0 ++ .initPoll mac mode left :: fs))
    | .initDetected mac mode =>
      if v ≠ codeOk then resume codeUnknownPhy fs { s with drv := .phyDetectFailed }
      else
        match bmcrValue mode with
        | some bmcr => ({ s with drv := .phyConfiguring }, .run (setModeFrames bmcr ++ .initMode mac :: fs))
        | none => resume codeUnsupportedMode fs { s with drv := .phyConfigFailed }
    | .initMode mac =>
      if v = codeUnsupportedMode ∨ v = codeTimeout then resume v fs { s with drv := .phyConfigFailed }
      else
        (s, .run (.seq (stationSeq mac) :: .initRing :: .initRx :: .initTx :: .seq initTail ::
          .initEnd (v == codeLinkDown) :: fs))
    | .initRing => resume 0 fs { s with drv := .ringInit }
    | .initEnd linkDown => resume (if linkDown then codeLinkDown else codeOk) fs { s with drv := .enabled }
    | .deinitDone => resume 0 fs { s with drv := .uninitialized, link := .unknown }
    | .seq ms => (s, .run (.seq ms :: fs))
    | .initRx => (s, .run (.initRx :: fs))
    | .initTx => (s, .run (.initTx :: fs))
    | .txPkt p src len => (s, .run (.txPkt p src len :: fs))
    | .txRead pkt p src len j => (s, .run (.txRead pkt p src len j :: fs))
    | .txWrite pkt p src len j w => (s, .run (.txWrite pkt p src len j w :: fs))
    | .txCtl p len => (s, .run (.txCtl p len :: fs))
    | .rxPkt c dst len => (s, .run (.rxPkt c dst len :: fs))
    | .rxRead pkt dst len j => (s, .run (.rxRead pkt dst len j :: fs))
    | .rxWrite pkt dst len j w => (s, .run (.rxWrite pkt dst len j w :: fs))
    | .chkRx c => (s, .run (.chkRx c :: fs))
    | .chkTx c => (s, .run (.chkTx c :: fs))
    | .wpMadr reg value => (s, .run (.wpMadr reg value :: fs))
    | .wpMwtd value => (s, .run (.wpMwtd value :: fs))
    | .wpPoll left => (s, .run (.wpPoll left :: fs))
    | .rpMadr reg => (s, .run (.rpMadr reg :: fs))
    | .rpMcmd => (s, .run (.rpMcmd :: fs))
    | .rpPoll left => (s, .run (.rpPoll left :: fs))
    | .rpClear => (s, .run (.rpClear :: fs))
    | .rpData => (s, .run (.rpData :: fs))
    | .updDelay left => (s, .run (.updDelay left :: fs))

/-- The rest of a straight-line part: its next micro-step, or its end. -/
def seqRest (ms : List Micro) (fs : List OpFrame) (s : State) : State × Cont :=
  match ms with
  | [] => resume 0 fs s
  | m :: ms => (s, .run (.seq (m :: ms) :: fs))

/-- A bus write, then `k`. -/
def doWrite (r : Reg) (v : Word) (s : State) (k : State → State × Cont) : Except Fault (State × Cont) :=
  match busWrite r v s with
  | .error f => .error f
  | .ok t => .ok (k t)

/-- The first step of a PHY access, the MADR write of register `reg` (R352), then `k`: a callback's faults where it would split FG's
(R708, log entry 28). -/
def doAddress (reg : MiiAddr) (s : State) (k : State → State × Cont) : Except Fault (State × Cont) :=
  if s.phySplit then .error (.miiBusyOverlap (s.site (some Reg.madr.offset.toNat))) else doWrite .madr (madrValue reg) s k

/-- A bus read, then `k`. -/
def doRead (r : Reg) (s : State) (k : Word → State → Except Fault (State × Cont)) : Except Fault (State × Cont) :=
  match busRead r s with
  | .error f => .error f
  | .ok (v, t) => k v t

/-- A memory write, then `k`. -/
def doMemWrite (a : Nat) (v : Word) (s : State) (k : State → State × Cont) : Except Fault (State × Cont) :=
  match hostWrite a v s with
  | .error f => .error f
  | .ok t => .ok (k t)

/-- A memory read, then `k`. -/
def doMemRead (a : Nat) (s : State) (k : Word → State → State × Cont) : Except Fault (State × Cont) :=
  match hostRead a s with
  | .error f => .error f
  | .ok (v, t) => .ok (k v t)

/-- One micro-step of a straight-line part, `ms` and `fs` following it. -/
def seqStep (m : Micro) (ms : List Micro) (fs : List OpFrame) (s : State) : Except Fault (State × Cont) :=
  match m with
  | .write r v => doWrite r v s (seqRest ms fs)
  | .setBits r m => doRead r s fun v t => .ok (t, .run (.seq (.write r (v ||| m) :: ms) :: fs))
  | .clrBits r m => doRead r s fun v t => .ok (t, .run (.seq (.write r (v &&& ~~~m) :: ms) :: fs))
  | .memWrite a v => doMemWrite a v s (seqRest ms fs)
  | .delay => .ok (seqRest ms fs s)
  | .powerOff => .ok (seqRest ms fs { s with powered := false, mii := .idle })

/-- After word `j - 1` of WRITE_TX_PACKET's copy: the next word, or the CONTROL word (R302). -/
def txNext (pkt p src len j : Nat) : OpFrame :=
  if j < wordCount len then .txRead pkt p src len j else .txCtl p len

/-- After word `j - 1` of READ_RX_PACKET's copy: the next word, or the end (R303). -/
def rxNext (pkt dst len j : Nat) (fs : List OpFrame) (s : State) : State × Cont :=
  if j < wordCount len then (s, .run (.rxRead pkt dst len j :: fs)) else resume 0 fs s

/-- One micro-step of an operation (R7): the top frame.  A frame that awaits a result is never on top. -/
def microStep (fs : List OpFrame) (s : State) : Except Fault (State × Cont) :=
  match fs with
  | [] => .ok (s, .ret 0)
  | f :: fs =>
    match f with
    | .seq ms =>
        match ms with
        | [] => .ok (resume 0 fs s)
        | m :: ms => seqStep m ms fs s
    | .initRx => doRead .command s fun cmd t =>
        if cmd.getLsbD 0 then .error (.ringConfigWhileEnabled (s.site (some 0x100)))
        else .ok (t, .run (.seq rxRingSeq :: .rxDone :: fs))
    | .initTx => doRead .command s fun cmd t =>
        if cmd.getLsbD 1 then .error (.ringConfigWhileEnabled (s.site (some 0x100)))
        else .ok (t, .run (.seq txRingSeq :: .txDone :: fs))
    | .txPkt p src len => doMemRead (txDescBase + 8 * p) s fun pkt t =>
        (t, .run (txNext pkt.toNat p src len 0 :: fs))
    | .txRead pkt p src len j => doMemRead (src + 4 * j) s fun w t =>
        (t, .run (.txWrite pkt p src len j w :: fs))
    | .txWrite pkt p src len j w => doMemWrite (pkt + 4 * j) w s fun t =>
        (t, .run (txNext pkt p src len (j + 1) :: fs))
    | .txCtl p len => doMemWrite (txDescBase + 8 * p + 4) (txControl len) s (resume 0 fs)
    | .rxPkt c dst len => doMemRead (rxDescBase + 8 * c) s fun pkt t => rxNext pkt.toNat dst len 0 fs t
    | .rxRead pkt dst len j => doMemRead (pkt + 4 * j) s fun w t => (t, .run (.rxWrite pkt dst len j w :: fs))
    | .rxWrite pkt dst len j w =>
        doMemWrite (dst + 4 * j) (rxCopyWord len j (Config.rxExcess s.tick) w) s (rxNext pkt dst len (j + 1) fs)
    | .chkRx c => doRead .rxProduceIndex s fun p t => .ok (resume (if c ≠ idx p then 1 else 0) fs t)
    | .chkTx c => doRead .txProduceIndex s fun p t =>
        .ok (resume (if idx p = subMod c 1 Config.nTx then 0 else 1) fs t)
    | .wpMadr reg value => doAddress reg s fun t => (t, .run (.wpMwtd value :: fs))
    | .wpMwtd value => doWrite .mwtd (value.setWidth 32) s fun t => (t, .run (.wpPoll (Config.miiRetries - 1) :: fs))
    | .wpPoll left => doRead .mind s fun m t =>
        if m.getLsbD 0 = false then .ok (resume 0 fs t)
        else
          match left with
          | 0 => .ok (resume codeTimeout fs t)
          | left + 1 => .ok (t, .run (.wpPoll left :: fs))
    | .rpMadr reg => doAddress reg s fun t => (t, .run (.rpMcmd :: fs))
    | .rpMcmd => doWrite .mcmd 1 s fun t => (t, .run (.rpPoll (Config.miiRetries - 1) :: fs))
    | .rpPoll left => doRead .mind s fun m t =>
        if m.getLsbD 0 = false then .ok (t, .run (.rpClear :: fs))
        else
          match left with
          | 0 => .ok (resume codeTimeout fs t)
          | left + 1 => .ok (t, .run (.rpPoll left :: fs))
    | .rpClear => doWrite .mcmd 0 s fun t => (t, .run (.rpData :: fs))
    | .rpData => doRead .mrdd s fun d t => .ok (resume (d &&& 0xFFFF#32) fs t)
    | .updDelay left =>
        match left with
        | 0 => .ok (resume codeLinkDown fs { s with link := .down, hist := .delayMs Config.linkDelayMs :: s.hist })
        | left + 1 =>
          .ok (s.log (.delayMs Config.linkDelayMs), .run (checkStatusFrames 0 ++ .updLink left :: fs))
    | .rxDone => .ok (resume 0 (.rxDone :: fs) s)
    | .txDone => .ok (resume 0 (.txDone :: fs) s)
    | .detect1 => .ok (resume 0 (.detect1 :: fs) s)
    | .detect2 id1 => .ok (resume 0 (.detect2 id1 :: fs) s)
    | .checkStatus kind => .ok (resume 0 (.checkStatus kind :: fs) s)
    | .setMode => .ok (resume 0 (.setMode :: fs) s)
    | .updLink left => .ok (resume 0 (.updLink left :: fs) s)
    | .updDup => .ok (resume 0 (.updDup :: fs) s)
    | .updSpeed d => .ok (resume 0 (.updSpeed d :: fs) s)
    | .linkUp => .ok (resume 0 (.linkUp :: fs) s)
    | .initWritten mac mode => .ok (resume 0 (.initWritten mac mode :: fs) s)
    | .initPoll mac mode left => .ok (resume 0 (.initPoll mac mode left :: fs) s)
    | .initDetected mac mode => .ok (resume 0 (.initDetected mac mode :: fs) s)
    | .initMode mac => .ok (resume 0 (.initMode mac :: fs) s)
    | .initRing => .ok (resume 0 (.initRing :: fs) s)
    | .initEnd linkDown => .ok (resume 0 (.initEnd linkDown :: fs) s)
    | .deinitDone => .ok (resume 0 (.deinitDone :: fs) s)

/-- The state after a micro-step: inside the operation, or at its end with the result in `ret` (R11, R551). -/
def settle (r : State × Cont) : State :=
  match r with
  | (t, .run fs) => putOp fs t
  | (t, .ret v) => t.finish v

/-- The answer of a micro-step. -/
def opAnswer (r : Except Fault (State × Cont)) : Outcome :=
  match r with
  | .error f => .fault f
  | .ok r => .next (settle r)

/-- The running agent takes one micro-step of an operation at the frames `fs`. -/
def opRun (fs : List OpFrame) (s : State) : Outcome := opAnswer (microStep fs s)

/-- The running agent continues its operation in progress. -/
def continueOp (s : State) : Outcome := opRun (curOp s) s

end Sys2Proof.Machine
end

