-- ==== Sys2Proof/Machine/Dispatcher.lean ====
section
/-!
DEFINITION. The interrupt demultiplexer (spec/44_dispatch.md): the meaning of SETUP_CALLBACK (R450), the first step of DISPATCH
(R453) and the steps of its loop.  The internal checks between two steps are `scan`, `leaveBody` and `enterWake` of Ops.lean.
-/

namespace Sys2Proof.Machine

/-- SETUP_CALLBACK (R450); foreground only (R163, log entry 27). -/
def execSetupCallback (typeMask : Word) (fn : Option CallbackId) (s : State) : Outcome :=
  if s.irq ≠ .idle then .fault (.forbiddenInContext (s.site none))
  else
    match maskOrdinal typeMask with
    | none => .next (s.finish 0)
    | some n => .next ({ s with cb := s.cb.set n fn }.finish 0)

/-- The answer of a bus read of DISPATCH, which writes no result register (R156). -/
def thenRead (r : Except Fault (Word × State)) (k : Word → State → State) : Outcome :=
  match r with
  | .error f => .fault f
  | .ok (v, t) => .next (k v t)

/-- The answer of a bus write of DISPATCH. -/
def thenWrite (r : Except Fault State) (k : State → State) : Outcome :=
  match r with
  | .error f => .fault f
  | .ok t => .next (k t)

/-- DISPATCH (R453): only the IRQ agent at the start of its program runs it (R452), and the
context comes before the checks of the first step (log entry 27); its first step reads IntStatus. -/
def execDispatch (s : State) : Outcome :=
  match s.irq with
  | .running st .start => thenRead (busRead .intStatus s) fun v t => t.setIrq st (.readEnable v)
  | _ => .fault (.forbiddenInContext (s.site none))

/-- DISPATCH reads IntEnable, having read `v` from IntStatus: the batch, or the end (R453). -/
def dispatchEnable (v : Word) (s : State) : Outcome :=
  thenRead (busRead .intEnable s) fun e t =>
    t.setIrq (v &&& e) (if v &&& e = 0 then .done else .clear)

/-- DISPATCH clears the bits of the batch (R455), then looks at the ordinals in order. -/
def dispatchClear (st : Word) (s : State) : Outcome :=
  thenWrite (busWrite .intClear st s) (scan batchOrdinals st)

/-- DISPATCH clears the wake-on-LAN status (R457). -/
def dispatchWolClear (st : Word) (s : State) : Outcome :=
  thenWrite (busWrite .rxFilterWoLClear Config.wolClearMask s) (enterWake st)

end Sys2Proof.Machine
end

