-- ==== Sys2Proof/Machine/Mac.lean ====
section
/-!
DEFINITION. The meanings of INIT, DEINIT and SET_HASH_FILTER (spec/43_mac.md R400 to R406).
-/

namespace Sys2Proof.Machine

/-- The frames of INIT after its clock enable (R400). -/
def initFrames (mac : List Byte) (mode : Word) : List OpFrame :=
  [.seq initHead, .wpMadr 0 0x8000, .initWritten mac mode]

/-- INIT (R400); foreground only (R163).  The first micro-step is the clock enable.  In a callback body the model reports
`forbiddenInContext` whatever `drv` is: no rule ranks R163 against the first line of R400 (log entry 27). -/
def execInit (mac : List Byte) (mode : Word) (s : State) : Outcome :=
  if isMac mac = false then illegal s
  else if s.irq ≠ .idle then .fault (.forbiddenInContext (s.site none))
  else if s.drv ≠ .uninitialized then .fault (.initWithoutDeinit (s.site none))
  else .next (putOp (initFrames mac mode) { s with powered := true, drv := .resetting })

/-- DEINIT (R404); foreground only, and the context comes first (R163, log entry 27). -/
def execDeinit (s : State) : Outcome :=
  if s.irq ≠ .idle then .fault (.forbiddenInContext (s.site none))
  else if s.powered then opRun [.seq deinitSeq, .deinitDone] s
  else .next ({ s with drv := .uninitialized, link := .unknown }.finish 0)

/-- SET_HASH_FILTER (R405, R406). -/
def execSetHashFilter (addr : List Byte) (enable : Nat) (s : State) : Outcome :=
  if isMac addr && isFlag enable then opRun [.seq (hashFilterSeq addr (enable == 1))] s else illegal s

end Sys2Proof.Machine
end

