-- ==== Sys2Proof/Machine/Phy.lean ====
section
/-!
DEFINITION. The meanings of the PHY operations (spec/42_phy.md R353 to R361).  Each starts at the frames of its first PHY
access; an argument outside its type is ill-formed (spec/30_encoding.md R157).
-/

namespace Sys2Proof.Machine

/-- WRITE_PHY (R353). -/
def execWritePhy (reg value : Nat) (s : State) : Outcome :=
  if isU5 reg && isU16 value then opRun (writePhyFrames (BitVec.ofNat 5 reg) (BitVec.ofNat 16 value)) s
  else illegal s

/-- READ_PHY (R354). -/
def execReadPhy (reg : Nat) (s : State) : Outcome :=
  if isU5 reg then opRun (readPhyFrames (BitVec.ofNat 5 reg)) s else illegal s

/-- DETECT_PHY (R355). -/
def execDetectPhy (s : State) : Outcome := opRun detectFrames s

/-- CHECK_STATUS (R356). -/
def execCheckStatus (kind : Word) (s : State) : Outcome := opRun (checkStatusFrames kind) s

/-- SET_MODE (R357): an unsupported mode makes no PHY access. -/
def execSetMode (mode : Word) (s : State) : Outcome :=
  match bmcrValue mode with
  | some bmcr => opRun (setModeFrames bmcr) s
  | none => .next (s.finish codeUnsupportedMode)

/-- UPDATE_STATUS (R359). -/
def execUpdateStatus (s : State) : Outcome := opRun updateStatusFrames s

end Sys2Proof.Machine
end

