-- ==== Sys2Proof/Machine/Ring.lean ====
section
/-!
DEFINITION. The meanings of the ring operations (spec/41_ring.md R300 to R307): the checks before the first micro-step, and
the first micro-step itself.  The later micro-steps are the frames of Engine.lean.
-/

namespace Sys2Proof.Machine

/-- INIT_RX_RING (R300); foreground only, and the context comes before the checks of the first micro-step (R163, log entry 27). -/
def execInitRxRing (s : State) : Outcome :=
  if s.irq ≠ .idle then .fault (.forbiddenInContext (s.site none)) else opRun [.initRx] s

/-- INIT_TX_RING (R301); foreground only, and the context comes before the checks of the first micro-step (R163, log entry 27). -/
def execInitTxRing (s : State) : Outcome :=
  if s.irq ≠ .idle then .fault (.forbiddenInContext (s.site none)) else opRun [.initTx] s

/-- WRITE_TX_PACKET (R302). -/
def execWriteTxPacket (src len : Word) (s : State) : Outcome :=
  if s.txRingInit = false then .fault (.ringNotInitialised (s.site none))
  else if len.toNat < 1 ∨ len.toNat > Config.frameBufSize then .fault (.lengthOutOfRange (s.site none))
  else if src.extractLsb' 0 2 ≠ 0#2 then .fault (.misaligned (s.site (some src.toNat)))
  else opAnswer <| doRead .txProduceIndex s fun p t =>
    if (idx p + 1) % Config.nTx = s.regs.txConsumeIndex.toNat then .error (.txRingFull (s.site (some 0x128)))
    else .ok (t, .run [.txPkt (idx p) src.toNat len.toNat])

/-- READ_RX_PACKET (R303). -/
def execReadRxPacket (dst len : Word) (s : State) : Outcome :=
  if s.rxRingInit = false then .fault (.ringNotInitialised (s.site none))
  else if len.toNat > Config.frameBufSize then .fault (.lengthOutOfRange (s.site none))
  else if dst ≠ 0 ∧ dst.extractLsb' 0 2 ≠ 0#2 then .fault (.misaligned (s.site (some dst.toNat)))
  else opAnswer <| doRead .rxConsumeIndex s fun c t =>
    if s.regs.rxProduceIndex.toNat = idx c then .error (.rxRingEmpty (s.site (some 0x118)))
    else if dst = 0 then .ok (t, .ret 0)
    else .ok (t, .run [.rxPkt (idx c) dst.toNat len.toNat])

/-- ADVANCE_CONSUME (R304). -/
def execAdvanceConsume (s : State) : Outcome :=
  opAnswer <| doRead .rxConsumeIndex s fun c t =>
    .ok (t, .run [.seq [.write .rxConsumeIndex (word ((idx c + 1) % Config.nRx))]])

/-- ADVANCE_PRODUCE (R305). -/
def execAdvanceProduce (s : State) : Outcome :=
  opAnswer <| doRead .txProduceIndex s fun p t =>
    .ok (t, .run [.seq [.write .txProduceIndex (word ((idx p + 1) % Config.nTx))]])

/-- CHECK_RECEIVE_INDEX (R306). -/
def execCheckReceiveIndex (s : State) : Outcome :=
  opAnswer <| doRead .rxConsumeIndex s fun c t => .ok (t, .run [.chkRx (idx c)])

/-- CHECK_TRANSMIT_INDEX (R307). -/
def execCheckTransmitIndex (s : State) : Outcome :=
  opAnswer <| doRead .txConsumeIndex s fun c t => .ok (t, .run [.chkTx (idx c)])

end Sys2Proof.Machine
end

