-- ==== Sys2Proof/Machine/Dispatch.lean ====
section
/-!
DEFINITION. The dispatch of the commands to their meanings: one arm per constructor of `Instr`.
-/

namespace Sys2Proof.Machine

def exec (i : Instr) (s : State) : Host.Outcome State Fault Refusal :=
  match i with
  | .rdMac1 => Sys2Proof.Machine.execRdMac1 s
  | .wrMac1 data => Sys2Proof.Machine.execWrMac1 data s
  | .rdMac2 => Sys2Proof.Machine.execRdMac2 s
  | .wrMac2 data => Sys2Proof.Machine.execWrMac2 data s
  | .rdIpgt => Sys2Proof.Machine.execRdIpgt s
  | .wrIpgt data => Sys2Proof.Machine.execWrIpgt data s
  | .rdIpgr => Sys2Proof.Machine.execRdIpgr s
  | .wrIpgr data => Sys2Proof.Machine.execWrIpgr data s
  | .rdClrt => Sys2Proof.Machine.execRdClrt s
  | .wrClrt data => Sys2Proof.Machine.execWrClrt data s
  | .rdMaxf => Sys2Proof.Machine.execRdMaxf s
  | .wrMaxf data => Sys2Proof.Machine.execWrMaxf data s
  | .rdSupp => Sys2Proof.Machine.execRdSupp s
  | .wrSupp data => Sys2Proof.Machine.execWrSupp data s
  | .rdMcfg => Sys2Proof.Machine.execRdMcfg s
  | .wrMcfg data => Sys2Proof.Machine.execWrMcfg data s
  | .rdMcmd => Sys2Proof.Machine.execRdMcmd s
  | .wrMcmd data => Sys2Proof.Machine.execWrMcmd data s
  | .rdMadr => Sys2Proof.Machine.execRdMadr s
  | .wrMadr data => Sys2Proof.Machine.execWrMadr data s
  | .rdMwtd => Sys2Proof.Machine.execRdMwtd s
  | .wrMwtd data => Sys2Proof.Machine.execWrMwtd data s
  | .rdMrdd => Sys2Proof.Machine.execRdMrdd s
  | .wrMrdd data => Sys2Proof.Machine.execWrMrdd data s
  | .rdMind => Sys2Proof.Machine.execRdMind s
  | .wrMind data => Sys2Proof.Machine.execWrMind data s
  | .rdSa0 => Sys2Proof.Machine.execRdSa0 s
  | .wrSa0 data => Sys2Proof.Machine.execWrSa0 data s
  | .rdSa1 => Sys2Proof.Machine.execRdSa1 s
  | .wrSa1 data => Sys2Proof.Machine.execWrSa1 data s
  | .rdSa2 => Sys2Proof.Machine.execRdSa2 s
  | .wrSa2 data => Sys2Proof.Machine.execWrSa2 data s
  | .rdCommand => Sys2Proof.Machine.execRdCommand s
  | .wrCommand data => Sys2Proof.Machine.execWrCommand data s
  | .rdStatus => Sys2Proof.Machine.execRdStatus s
  | .wrStatus data => Sys2Proof.Machine.execWrStatus data s
  | .rdRxDescriptor => Sys2Proof.Machine.execRdRxDescriptor s
  | .wrRxDescriptor data => Sys2Proof.Machine.execWrRxDescriptor data s
  | .rdRxStatus => Sys2Proof.Machine.execRdRxStatus s
  | .wrRxStatus data => Sys2Proof.Machine.execWrRxStatus data s
  | .rdRxDescriptorNumber => Sys2Proof.Machine.execRdRxDescriptorNumber s
  | .wrRxDescriptorNumber data => Sys2Proof.Machine.execWrRxDescriptorNumber data s
  | .rdRxProduceIndex => Sys2Proof.Machine.execRdRxProduceIndex s
  | .wrRxProduceIndex data => Sys2Proof.Machine.execWrRxProduceIndex data s
  | .rdRxConsumeIndex => Sys2Proof.Machine.execRdRxConsumeIndex s
  | .wrRxConsumeIndex data => Sys2Proof.Machine.execWrRxConsumeIndex data s
  | .rdTxDescriptor => Sys2Proof.Machine.execRdTxDescriptor s
  | .wrTxDescriptor data => Sys2Proof.Machine.execWrTxDescriptor data s
  | .rdTxStatus => Sys2Proof.Machine.execRdTxStatus s
  | .wrTxStatus data => Sys2Proof.Machine.execWrTxStatus data s
  | .rdTxDescriptorNumber => Sys2Proof.Machine.execRdTxDescriptorNumber s
  | .wrTxDescriptorNumber data => Sys2Proof.Machine.execWrTxDescriptorNumber data s
  | .rdTxProduceIndex => Sys2Proof.Machine.execRdTxProduceIndex s
  | .wrTxProduceIndex data => Sys2Proof.Machine.execWrTxProduceIndex data s
  | .rdTxConsumeIndex => Sys2Proof.Machine.execRdTxConsumeIndex s
  | .wrTxConsumeIndex data => Sys2Proof.Machine.execWrTxConsumeIndex data s
  | .rdRxFilterCtrl => Sys2Proof.Machine.execRdRxFilterCtrl s
  | .wrRxFilterCtrl data => Sys2Proof.Machine.execWrRxFilterCtrl data s
  | .rdRxFilterWoLStatus => Sys2Proof.Machine.execRdRxFilterWoLStatus s
  | .wrRxFilterWoLStatus data => Sys2Proof.Machine.execWrRxFilterWoLStatus data s
  | .rdRxFilterWoLClear => Sys2Proof.Machine.execRdRxFilterWoLClear s
  | .wrRxFilterWoLClear data => Sys2Proof.Machine.execWrRxFilterWoLClear data s
  | .rdHashFilterL => Sys2Proof.Machine.execRdHashFilterL s
  | .wrHashFilterL data => Sys2Proof.Machine.execWrHashFilterL data s
  | .rdHashFilterH => Sys2Proof.Machine.execRdHashFilterH s
  | .wrHashFilterH data => Sys2Proof.Machine.execWrHashFilterH data s
  | .rdIntStatus => Sys2Proof.Machine.execRdIntStatus s
  | .wrIntStatus data => Sys2Proof.Machine.execWrIntStatus data s
  | .rdIntEnable => Sys2Proof.Machine.execRdIntEnable s
  | .wrIntEnable data => Sys2Proof.Machine.execWrIntEnable data s
  | .rdIntClear => Sys2Proof.Machine.execRdIntClear s
  | .wrIntClear data => Sys2Proof.Machine.execWrIntClear data s
  | .rdIntSet => Sys2Proof.Machine.execRdIntSet s
  | .wrIntSet data => Sys2Proof.Machine.execWrIntSet data s
  | .initRxRing => Sys2Proof.Machine.execInitRxRing s
  | .initTxRing => Sys2Proof.Machine.execInitTxRing s
  | .writeTxPacket src len => Sys2Proof.Machine.execWriteTxPacket src len s
  | .readRxPacket dst len => Sys2Proof.Machine.execReadRxPacket dst len s
  | .advanceConsume => Sys2Proof.Machine.execAdvanceConsume s
  | .advanceProduce => Sys2Proof.Machine.execAdvanceProduce s
  | .checkReceiveIndex => Sys2Proof.Machine.execCheckReceiveIndex s
  | .checkTransmitIndex => Sys2Proof.Machine.execCheckTransmitIndex s
  | .writePhy reg value => Sys2Proof.Machine.execWritePhy reg value s
  | .readPhy reg => Sys2Proof.Machine.execReadPhy reg s
  | .detectPhy => Sys2Proof.Machine.execDetectPhy s
  | .checkStatus kind => Sys2Proof.Machine.execCheckStatus kind s
  | .setMode mode => Sys2Proof.Machine.execSetMode mode s
  | .updateStatus => Sys2Proof.Machine.execUpdateStatus s
  | .init mac mode => Sys2Proof.Machine.execInit mac mode s
  | .deinit => Sys2Proof.Machine.execDeinit s
  | .setHashFilter addr enable => Sys2Proof.Machine.execSetHashFilter addr enable s
  | .setupCallback typeMask fn => Sys2Proof.Machine.execSetupCallback typeMask fn s
  | .dispatch => Sys2Proof.Machine.execDispatch s
  | .crc32 data => Sys2Proof.Machine.execCrc32 data s
  | .memRead32 addr => Sys2Proof.Machine.execMemRead32 addr s
  | .memWrite32 addr value => Sys2Proof.Machine.execMemWrite32 addr value s
  | .delayMs n => Sys2Proof.Machine.execDelayMs n s
  | .beq imm target => Sys2Proof.Machine.execBeq imm target s
  | .bne imm target => Sys2Proof.Machine.execBne imm target s
  | .jmp target => Sys2Proof.Machine.execJmp target s
  | .halt => Sys2Proof.Machine.execHalt s

end Sys2Proof.Machine
end

