-- ==== Sys2Proof/Machine/Dma.lean ====
section
/-!
DEFINITION. The DMA agents (spec/46_agents.md): the receive filter (R505, R506), the RX deposit (R503), the loss of received data
(R504), and the TX send (R511).  A step an agent cannot take leaves the state unchanged.
-/

namespace Sys2Proof.Machine

/-- Append a list of events, the first one first. -/
def State.logAll (es : List Event) (s : State) : State := { s with hist := es.reverse ++ s.hist }

/-- The events of byte accesses at `a`, `a + 1`, ... -/
def byteEvents (agent : Agent) (dir : Dir) (a : Nat) (bs : List Byte) : List Event :=
  bs.zipIdx.map fun p => .mem agent (a + p.2) 1 dir (p.1.setWidth 32)

/-- Write bytes at `a`, `a + 1`, ... -/
def Memory.writeBytes (a : Nat) : List Byte → Memory → Memory
  | [], m => m
  | b :: bs, m => Memory.writeBytes (a + 1) bs (Memory.write a b m)

/-- The `n` bytes from `a`. -/
def Memory.readBytes (m : Memory) (a n : Nat) : List Byte := (List.range n).map fun k => Memory.read m (a + k)

/-- SIZE + 1 of a descriptor's CONTROL word (R73, R75). -/
def sizeField (ctl : Word) : Nat := (ctl.extractLsb' 0 11).toNat + 1

/-! ### The receive filter -/

/-- The frame the wire offers (R501). -/
def RxOffer.frame (o : RxOffer) : List Byte := o.da.toList ++ o.rest

/-- The broadcast address. -/
def isBroadcast (da : Vector Byte 6) : Bool := da.toList == List.replicate 6 0xFF#8

/-- The group bit of an address. -/
def isGroup (da : Vector Byte 6) : Bool := (da[0]).getLsbD 0

/-- The address is held by the hash table (R482, R505). -/
def hashHit (r : Regs) (da : Vector Byte 6) : Bool := hashBit r (hashIndex (crc32 da.toList))

/-- The filter accepts the address (R505); `bcastHash` is the draw of R506.  The perfect match is R505's term as it stands, for a
broadcast station address too, where R506 has a rejection or a draw (DEDUCED, log entry 24). -/
def filterAccepts (r : Regs) (da : Vector Byte 6) (bcastHash : Bool) : Bool :=
  let rfc := r.rxFilterCtrl
  let bc := isBroadcast da
  let mc := isGroup da && !bc
  let uc := !isGroup da
  let hit := hashHit r da
  (uc && rfc.getLsbD 0) || (bc && rfc.getLsbD 1) || (mc && rfc.getLsbD 2) || (uc && rfc.getLsbD 3 && hit) ||
    (mc && rfc.getLsbD 4 && hit) || (da.toList == stationOctets r && rfc.getLsbD 5) ||
    (bc && rfc.getLsbD 4 && !rfc.getLsbD 1 && bcastHash)

/-- PASS_RX_FILTER (R505). -/
def passAll (r : Regs) : Bool := r.command.getLsbD 7

/-! ### RXDMA -/

/-- RXDMA may step (R500). -/
def rxEnabled (s : State) : Bool :=
  s.powered && s.rxOn && s.regs.mac1.getLsbD 0 && (s.regs.mac1 &&& 0xCC00#32) == 0#32

/-- What the wire brings: a new frame, or the rest of the one in progress (R500). -/
def rxData (o : RxOffer) (s : State) : List Byte := if s.rxMidFrame then s.rxRemain else o.frame

/-- The received data is lost (R504). -/
def rxLose (o : RxOffer) (s : State) : State :=
  { s with
    regs := { s.regs with intStatus := s.regs.intStatus ||| o.overflow.setWidth 32 }
    rxMidFrame := false
    rxRemain := [] }.log (.rxFrame (rxData o s) (if s.rxMidFrame then s.rxErr else o.err) .lost)

/-- The status word of a fragment of `n` bytes before ERROR (R503). -/
def rxInfoBase (o : RxOffer) (s : State) (n : Nat) (last : Bool) : Word :=
  word (n - 1) |||
    if last then
      bitIf true 30 ||| (s.rxErr.setWidth 32 <<< 23) ||| bitIf (isBroadcast s.rxDa) 22 |||
        bitIf (isGroup s.rxDa && !isBroadcast s.rxDa) 21 ||| bitIf s.rxFail 20 ||| bitIf o.vlan 19 |||
        bitIf o.control 18
    else o.midInfo.setWidth 32 <<< 18

/-- The status word of a fragment (R503): ERROR is the OR of bits 29:23. -/
def rxInfo (o : RxOffer) (s : State) (n : Nat) (last : Bool) : Word :=
  rxInfoBase o s n last ||| bitIf ((rxInfoBase o s n last).extractLsb' 23 7 != 0#7) 31

/-- The IntStatus bits an RX deposit sets (R503). -/
def rxInts (s : State) (ctl info : Word) (last : Bool) : Word :=
  bitIf (ctl.getLsbD 31) 3 ||| bitIf (last && info.getLsbD 31) 1 |||
    bitIf ((idx s.regs.rxProduceIndex + 2) % s.nr == idx s.regs.rxConsumeIndex) 2

/-- The accesses of an RX deposit, in order (R84, R503). -/
def rxEvents (d st : Nat) (buf ctl info hashCrc : Word) (bs : List Byte) : List Event :=
  Event.mem .rxdma d 4 .read buf :: Event.mem .rxdma (d + 4) 4 .read ctl ::
    (byteEvents .rxdma .write buf.toNat bs ++
      [Event.mem .rxdma st 4 .write info, Event.mem .rxdma (st + 4) 4 .write hashCrc])

/-- Deposit the next fragment of `rxRemain` (R503); `none` where an address lies outside DMA_REGION. -/
def rxDeposit (o : RxOffer) (s : State) : Option State :=
  let p := idx s.regs.rxProduceIndex
  let d := s.regs.rxDescriptor.toNat + 8 * p
  let st := s.regs.rxStatus.toNat + 8 * p
  let buf := Memory.readWord s.mem d
  let ctl := Memory.readWord s.mem (d + 4)
  let n := min (sizeField ctl) s.rxRemain.length
  let bs := s.rxRemain.take n
  let last := n == s.rxRemain.length
  let info := rxInfo o s n last
  if inDmaRegion d 8 && inDmaRegion st 8 && inDmaRegion buf.toNat n then
    some ({ s with
      mem := Memory.writeWord (st + 4) o.hashCrc (Memory.writeWord st info (Memory.writeBytes buf.toNat bs s.mem))
      regs := { s.regs with
        rxProduceIndex := word ((p + 1) % s.nr)
        intStatus := s.regs.intStatus ||| rxInts s ctl info last }
      rxRemain := s.rxRemain.drop n
      rxMidFrame := !last }.logAll
        (rxEvents d st buf ctl info o.hashCrc bs))
  else none

/-- A new frame becomes the frame in progress (R501). -/
def rxStart (o : RxOffer) (s : State) : State :=
  { s with
    rxRemain := o.frame
    rxDa := o.da
    rxErr := o.err
    rxFail := !filterAccepts s.regs o.da o.bcastHash }.log (.rxFrame o.frame o.err .accepted)

/-- One step of RXDMA (R500 to R507); a full ring is looked at before the filter (log entry 13). -/
def rxdmaStep (o : RxOffer) (s : State) : State :=
  if rxEnabled s = false then s
  else if s.rxFull then rxLose o s
  else if s.rxMidFrame then (rxDeposit o s).getD s
  else if filterAccepts s.regs o.da o.bcastHash || passAll s.regs then (rxDeposit o (rxStart o s)).getD s
  else s.log (.rxFrame o.frame o.err .discarded)

/-! ### TXDMA -/

/-- TXDMA may step (R510). -/
def txEnabled (s : State) : Bool :=
  s.powered && s.txOn && (s.regs.mac1 &&& 0xC300#32) == 0#32 &&
    idx s.regs.txConsumeIndex != idx s.regs.txProduceIndex

/-- The status word of a transmission (R511): ERROR is the OR of bits 30:26. -/
def txStatusWord (draw : BitVec 10) : Word :=
  let st : Word := draw.setWidth 32 <<< 21
  st ||| bitIf (st.extractLsb' 26 5 != 0#5) 31

/-- The IntStatus bits a transmission sets (R511, R512). -/
def txInts (s : State) (ctl st : Word) : Word :=
  bitIf (ctl.getLsbD 31) 7 ||| bitIf (st.getLsbD 31) 5 ||| bitIf (st.getLsbD 29) 4 |||
    bitIf ((idx s.regs.txConsumeIndex + 1) % s.nt == idx s.regs.txProduceIndex) 6

/-- The accesses and the frame of a transmission, in order (R84, R511). -/
def txEvents (d sa : Nat) (buf ctl st : Word) (bs : List Byte) : List Event :=
  Event.mem .txdma d 4 .read buf :: Event.mem .txdma (d + 4) 4 .read ctl ::
    (byteEvents .txdma .read buf.toNat bs ++
      [Event.txFrame bs (ctl.getLsbD 30), Event.mem .txdma sa 4 .write st])

/-- Send the descriptor at the consume index (R511); `none` where an address lies outside DMA_REGION. -/
def txSend (draw : BitVec 10) (s : State) : Option State :=
  let c := idx s.regs.txConsumeIndex
  let d := s.regs.txDescriptor.toNat + 8 * c
  let sa := s.regs.txStatus.toNat + 4 * c
  let buf := Memory.readWord s.mem d
  let ctl := Memory.readWord s.mem (d + 4)
  let n := sizeField ctl
  let bs := Memory.readBytes s.mem buf.toNat n
  let st := txStatusWord draw
  if inDmaRegion d 8 && inDmaRegion sa 4 && inDmaRegion buf.toNat n then
    some ({ s with
      mem := Memory.writeWord sa st s.mem
      regs := { s.regs with
        txConsumeIndex := word ((c + 1) % s.nt)
        intStatus := s.regs.intStatus ||| txInts s ctl st } }.logAll
        (txEvents d sa buf ctl st bs))
  else none

/-- One step of TXDMA (R510, R511). -/
def txdmaStep (draw : BitVec 10) (s : State) : State :=
  if txEnabled s then (txSend draw s).getD s else s

end Sys2Proof.Machine
end

