-- ==== Sys2Proof/Machine/Env.lean ====
section
/-!
DEFINITION. The MII sequencer's completions (spec/46_agents.md R520, R521) and ENV's wake step (R532).  A step an agent cannot
take leaves the state unchanged.
-/

namespace Sys2Proof.Machine

/-- The MII agent completes the cycle in flight (R520, R521). -/
def miiStep (s : State) : State :=
  if s.powered = false then s
  else
    match s.mii with
    | .idle => s
    | .write phy reg data => { s with mii := .idle }.log (.phyWrite phy reg data)
    | .read phy reg =>
      let v := Config.phyRead phy reg s.hist
      { s with regs := { s.regs with mrdd := v.setWidth 32 }, mii := .idle }.log (.phyRead phy reg v)

/-- The wake bits RxFilterCtrl enables (R532). -/
def wakeMask (rfc : Word) : Word :=
  (if rfc.getLsbD 12 then 0x00000100#32 else 0#32) ||| (if rfc.getLsbD 13 then 0x000000BF#32 else 0#32)

/-- The wake bits of a draw (R532). -/
def wakeBits (bits : BitVec 9) (s : State) : Word := bits.setWidth 32 &&& wakeMask s.regs.rxFilterCtrl

/-- ENV raises a wake-on-LAN event (R532); without an enabled bit drawn there is no step. -/
def wakeStep (bits : BitVec 9) (s : State) : State :=
  if s.powered && wakeBits bits s != 0#32 then
    { s with regs := { s.regs with
        rxFilterWoLStatus := s.regs.rxFilterWoLStatus ||| wakeBits bits s
        intStatus := s.regs.intStatus ||| bitMask Config.wakeupIntBit } }
  else s

end Sys2Proof.Machine
end

