-- ==== Sys2Proof/Machine/Run.lean ====
section
/-!
DEFINITION. The agents' steps (spec/00_scope.md R8): fetching and running a program line, the FG agent, the IRQ agent with its
interrupt entry and return, and the hardware agents.  An agent that has no step leaves the state unchanged (log entry 3).
-/

namespace Sys2Proof.Machine

/-- A legal BUS word whose offset has no in-scope register (R160, R203): powered, mapped, in scope, in that order. -/
def holeFault (off : BitVec 12) (s : State) : Outcome :=
  if s.powered = false then .fault (.unpowered (s.site (some off.toNat)))
  else if off ∈ outOfScopeOffsets then .fault (.refused (s.site (some off.toNat)))
  else .fault (.unmapped (s.site (some off.toNat)))

/-- Run one program line from its start. -/
def runLine (l : Line) (s : State) : Outcome :=
  match decodeLine l with
  | .instr i => exec i s
  | .hole _ off => holeFault off s
  | .illegal => illegal s

/-- The running host context takes one micro-step (R558): of its operation in progress, else of the command at its program
counter.  Past the end of the program it has none (R556). -/
def contextStep (s : State) : Outcome :=
  match curOp s with
  | [] =>
    match curLine s with
    | some l => runLine l s
    | none => .next s
  | _ :: _ => continueOp s

/-- One step of FG: none while IRQ runs (R606), none after HALT (R556). -/
def fgStep (s : State) : Outcome :=
  if s.irq = .idle ∧ s.halted = false then contextStep s else .next s

/-- One step of the IRQ agent: interrupt entry (R605), the steps of DISPATCH (R453) and of the callback bodies (R456), and
interrupt return (R607). -/
def irqStep (s : State) : Outcome :=
  match s.irq with
  | .idle => .next (if irqLine s then takeInterrupt s else s)
  | .running st pos =>
    match pos with
    | .start => runLine dispatchLine s
    | .readEnable v => dispatchEnable v s
    | .clear => dispatchClear st s
    | .body _ _ _ _ => contextStep s
    | .wolClear => dispatchWolClear st s
    | .done => .next (returnInterrupt s)

/-- The step of the agent whose turn it is. -/
def agentStep (s : State) : Outcome :=
  match s.turn with
  | .fg => fgStep s
  | .irq => irqStep s
  | .rxdma o => .next (rxdmaStep o s)
  | .txdma draw => .next (txdmaStep draw s)
  | .mii => .next (miiStep s)
  | .wake bits => .next (wakeStep bits s)

/-- The free schedule names the next step and its draws (R533, log entry 3). -/
def passTurn (s : State) : State := { s with turn := Config.sched s.tick, tick := s.tick + 1 }

/-- The end of a step: the schedule names the next one, or the fault is recorded in the history (R84). -/
def endStep (o : Outcome) : Outcome :=
  match o with
  | .next t => .next (passTurn t)
  | .fault f => .fault f.recorded
  | .refused r => .refused r

/-- One step of the machine. -/
def machineStep (s : State) : Outcome := endStep (agentStep s)

/-! ### The end of a run (R557) -/

/-- FG has halted (R556): it has executed HALT, or it has run off the end of its program, which has the same effect without a step. -/
def State.fgHalted (s : State) : Bool := s.halted || (s.fgOp.isEmpty && decide (s.prog.length ≤ s.pc))

/-- A run that has reached `s` has ended normally (R557): FG has halted and `irq = Idle`. -/
def State.runEnded (s : State) : Bool := s.fgHalted && decide (s.irq = .idle)

/-- How a run ends (R557): normally, with its end state, which is the whole state, or in a fault, which is never an end state. -/
inductive RunEnd where
  | normal (endState : State)
  | fault (f : Fault)
  deriving DecidableEq, Repr

/-- The end of a run whose last outcome is `o`; `none` while it goes on.  After a normal end the hardware agents may still step and
an interrupt may still be entered, so `step` goes on from an end state. -/
def runEnd (o : Outcome) : Option RunEnd :=
  match o with
  | .next s => if s.runEnded then some (.normal s) else none
  | .fault f => some (.fault f)
  | .refused _ => none

/-- FG's program with a line placed at its program counter. -/
def placeLine (l : Line) (s : State) : List Line :=
  if s.pc < s.prog.length then s.prog.set s.pc l
  else s.prog ++ List.replicate (s.pc - s.prog.length) l ++ [l]

/-- The state in which the next step is FG's, at the start of the line a command word stands for (log entry 7). -/
def placeWord (nbits w : Nat) (s : State) : State :=
  { s with
    turn := .fg
    irq := .idle
    halted := false
    fgOp := []
    prog := placeLine (lineOfWord nbits w) s }

end Sys2Proof.Machine
end

