-- ==== Sys2Proof/Machine/Step.lean ====
section
/-!
DEFINITION. The machine's step, and how one command word is placed where FG takes its next line.
-/

namespace Sys2Proof.Machine

/-- One atomic step of one agent (R8, R121). -/
def step (s : State) : Host.Outcome State Fault Refusal := machineStep s

/-- `s` with one command word placed so that the next step runs it. -/
def State.withFetchWord (s : State) (nbits w : Nat) : State := placeWord nbits w s

end Sys2Proof.Machine
end

