-- ==== Sys2Proof/Safety.lean ====
section
/-!
DEFINITION. What the claims are stated with: the invariants of the state, the ends of single-step commands, runs of one host
context under three schedules, where a micro-step stores, and the table of the MAC engine's transitions.
-/

namespace Sys2Proof.Machine

/-! ### Invariants -/

/-- Every register reads 0 in its reserved bits (R201). -/
def Regs.reservedZero (r : Regs) : Prop :=
  r.mac1 &&& ~~~0x0000CF1F#32 = 0 ∧ r.mac2 &&& ~~~0x000073FF#32 = 0 ∧ r.ipgt &&& ~~~0x0000007F#32 = 0 ∧
  r.ipgr &&& ~~~0x00007F7F#32 = 0 ∧ r.clrt &&& ~~~0x00003F0F#32 = 0 ∧ r.maxf &&& ~~~0x0000FFFF#32 = 0 ∧
  r.supp &&& ~~~0x00000900#32 = 0 ∧ r.mcfg &&& ~~~0x0000803F#32 = 0 ∧ r.mcmd &&& ~~~0x00000001#32 = 0 ∧
  r.madr &&& ~~~0x00001F1F#32 = 0 ∧ r.mrdd &&& ~~~0x0000FFFF#32 = 0 ∧ r.sa0 &&& ~~~0x0000FFFF#32 = 0 ∧
  r.sa1 &&& ~~~0x0000FFFF#32 = 0 ∧ r.sa2 &&& ~~~0x0000FFFF#32 = 0 ∧ r.command &&& ~~~0x000007C3#32 = 0 ∧
  r.rxDescriptor &&& ~~~0xFFFFFFFC#32 = 0 ∧ r.rxStatus &&& ~~~0xFFFFFFF8#32 = 0 ∧
  r.rxDescriptorNumber &&& ~~~0x0000FFFF#32 = 0 ∧ r.rxProduceIndex &&& ~~~0x0000FFFF#32 = 0 ∧
  r.rxConsumeIndex &&& ~~~0x0000FFFF#32 = 0 ∧ r.txDescriptor &&& ~~~0xFFFFFFFC#32 = 0 ∧
  r.txStatus &&& ~~~0xFFFFFFFC#32 = 0 ∧ r.txDescriptorNumber &&& ~~~0x0000FFFF#32 = 0 ∧
  r.txProduceIndex &&& ~~~0x0000FFFF#32 = 0 ∧ r.txConsumeIndex &&& ~~~0x0000FFFF#32 = 0 ∧
  r.rxFilterCtrl &&& ~~~0x0000303F#32 = 0 ∧ r.rxFilterWoLStatus &&& ~~~0x000001BF#32 = 0 ∧
  r.intStatus &&& ~~~0x000030FF#32 = 0 ∧ r.intEnable &&& ~~~0x000030FF#32 = 0

/-- Every ring index is below its ring's size (R52, R57, R221 to R223). -/
def State.indicesInRange (s : State) : Prop :=
  s.regs.rxProduceIndex.toNat < s.nr ∧ s.regs.rxConsumeIndex.toNat < s.nr ∧
  s.regs.txProduceIndex.toNat < s.nt ∧ s.regs.txConsumeIndex.toNat < s.nt

/-- A received frame is in progress exactly when bytes of it remain (R81, R501). -/
def State.rxFrameOk (s : State) : Prop := s.rxMidFrame = true ↔ s.rxRemain ≠ []

/-- A management cycle is in flight only on a powered block (R404, R616). -/
def State.miiPowered (s : State) : Prop := s.mii ≠ .idle → s.powered = true

/-- Where the IRQ agent is inside a callback body, its program counter is a line of that body (R456, R551, R556). -/
def State.bodyOk (s : State) : Prop :=
  match s.irq with
  | .running _ (.body _ id pc _) => pc < (bodyOf s id).length
  | _ => True

/-! ### INIT and the MAC engine's state machine (R401) -/

/-- The `drv` value in which INIT is, read from the frames of its operation; `none` where they are not INIT's. -/
def initStage : List OpFrame → Option Drv
  | [] => none
  | .initWritten _ _ :: _ => some .resetting
  | .initPoll _ _ _ :: _ => some .resetting
  | .initDetected _ _ :: _ => some .phyDetect
  | .initMode _ :: _ => some .phyConfiguring
  | .initRing :: _ => some .phyConfiguring
  | .initEnd _ :: _ => some .ringInit
  | _ :: fs => initStage fs

/-- What follows INIT's frame and DEINIT's in an operation, in every run. -/
def initShape : List OpFrame → Bool
  | [] => true
  | .initWritten _ _ :: fs => fs == []
  | .initPoll _ _ _ :: fs => fs == []
  | .initDetected _ _ :: fs => fs == []
  | .initMode _ :: fs => fs == []
  | .initRing :: fs => fs.take 2 == [.initRx, .initTx] && initShape fs && initStage fs == some .ringInit
  | .initEnd _ :: fs => fs == []
  | .deinitDone :: fs => fs == []
  | _ :: fs => initShape fs

/-- A frame that an operation of a callback body can have: none of INIT, DEINIT and the ring initialisations (R163). -/
def bodyFrame : OpFrame → Bool
  | .initRx | .rxDone | .initTx | .txDone => false
  | .initWritten _ _ | .initPoll _ _ _ | .initDetected _ _ | .initMode _ | .initRing | .initEnd _ => false
  | .deinitDone => false
  | _ => true

/-- INIT is in progress only in FG, and `drv` names its stage. -/
def State.stageOk (s : State) : Prop :=
  initShape s.fgOp = true ∧ (∀ d, initStage s.fgOp = some d → s.drv = d) ∧
  (match s.irq with
   | .running _ (.body _ _ _ op) => op.all bodyFrame = true
   | _ => True)

/-- The rows of R401's table, DEINIT's apart. -/
def drvTransitions : List (Drv × Drv) :=
  [(.uninitialized, .resetting), (.resetting, .phyResetTimeout), (.resetting, .phyDetect),
   (.phyDetect, .phyDetectFailed), (.phyDetect, .phyConfiguring), (.phyConfiguring, .phyConfigFailed),
   (.phyConfiguring, .ringInit), (.ringInit, .enabled)]

/-! ### The ends of single-step commands -/

/-- A BUS-R of register `r` that returned `v` (R203): the event, then the result and the next line. -/
def readDone (r : Reg) (v : Word) (s : State) : State := (s.log (.bus s.agent r.offset .read v)).finish v

/-- A BUS-W of `v` to register `r` that left the registers `regs` (R203): the event, then the next line. -/
def writeDone (r : Reg) (v : Word) (regs : Regs) (s : State) : State :=
  ({ s with regs := regs }.log (.bus s.agent r.offset .write v)).next

/-- The state after a bus read inside an operation: only its event is added. -/
def readLogged (r : Reg) (v : Word) (s : State) : State := s.log (.bus s.agent r.offset .read v)

/-- The state after a bus write inside an operation. -/
def writeLogged (r : Reg) (v : Word) (regs : Regs) (s : State) : State :=
  { s with regs := regs }.log (.bus s.agent r.offset .write v)

/-! ### Runs -/

/-- Continue an outcome. -/
def andThen (o : Outcome) (k : State → Outcome) : Outcome :=
  match o with
  | .next t => k t
  | .fault f => .fault f
  | .refused r => .refused r

/-- `n` micro-steps of the running context's operation in progress, no other agent stepping. -/
def aloneRun : Nat → State → Outcome
  | 0, s => .next s
  | n + 1, s => andThen (continueOp (passTurn s)) (aloneRun n)

/-- `n` micro-steps of the running context's operation in progress, the MII agent stepping before each: every management
cycle completes before the first poll that follows it. -/
def promptRun : Nat → State → Outcome
  | 0, s => .next s
  | n + 1, s => andThen (continueOp (passTurn (miiStep (passTurn s)))) (promptRun n)

/-- `n` steps of the IRQ agent, no other agent stepping. -/
def irqRun : Nat → State → Outcome
  | 0, s => .next s
  | n + 1, s => andThen (irqStep (passTurn s)) (irqRun n)

/-- A whole command, alone: its first micro-step, then `n` more. -/
def aloneCommand (i : Instr) (n : Nat) (s : State) : Outcome := andThen (exec i s) (aloneRun n)

/-- A whole command with prompt management cycles: its first micro-step, then `n` more. -/
def promptCommand (i : Instr) (n : Nat) (s : State) : Outcome := andThen (exec i s) (promptRun n)

/-- A command `k` times, each alone with `n` further micro-steps. -/
def aloneTimes (i : Instr) (n : Nat) : Nat → State → Outcome
  | 0, s => .next s
  | k + 1, s => andThen (aloneCommand i n s) (fun t => aloneTimes i n k (passTurn t))

/-- The outcome is the state `k` makes of `s`, with another history, of which `q` holds, and another place in the schedule. -/
def endsIn (o : Outcome) (s : State) (k : State → State) (q : List Event → Prop) : Prop :=
  ∃ (h : List Event) (tn : Turn) (n : Nat), o = .next (k { s with hist := h, turn := tn, tick := n }) ∧ q h

/-- The first step of an access to PHY register `reg`: MADR addresses PHY 1 (R352 to R354), and the frames `fs` follow. -/
def accessStarted (reg : Nat) (fs : List OpFrame) (s : State) : State :=
  putOp fs (writeLogged .madr (BitVec.ofNat 32 (256 + reg)) { s.regs with madr := BitVec.ofNat 32 (256 + reg) } s)

/-- The history in which a prompt READ_PHY of register `reg` from `s` gets its answer. -/
def readHistory (reg : Nat) (s : State) : List Event :=
  .bus s.agent 0x024 .write 1 :: .bus s.agent 0x028 .write (BitVec.ofNat 32 (256 + reg)) :: s.hist

/-- A host program runs: FG's, or a callback body. -/
def State.inProgram (s : State) : Prop :=
  match s.irq with
  | .idle => True
  | .running _ (.body _ _ _ _) => True
  | .running _ _ => False

/-- The completed PHY cycles among some events. -/
def phyEvents (es : List Event) : List Event :=
  es.filter fun e => match e with
    | .phyWrite _ _ _ => true
    | .phyRead _ _ _ => true
    | _ => false

/-- A word of system memory at `a` that a host context may read and write now: aligned, inside the address space, outside the
register window, and in no hardware-owned slot of an enabled ring (R120, R240, R241). -/
def State.accessible (s : State) (a : Nat) : Prop :=
  a % 4 = 0 ∧ a + 4 ≤ 2 ^ 32 ∧ (a + 4 ≤ Config.emacBase ∨ Config.emacBase + 0x1000 ≤ a) ∧ hwOwned s a = false

/-! ### Named CRC-32 variants (R483) -/

/-- One bit-step of the reflected CRC-32. -/
def reflectedBit (c : Word) (d : Bool) : Word := (c >>> 1) ^^^ (if c.getLsbD 0 ^^ d then 0xEDB88320#32 else 0#32)

/-- The CRC-32 of IEEE 802.3 and zlib: reflected, complemented at the end. -/
def crcZlib (bs : List Byte) : Word :=
  ~~~(bs.foldl (fun c b => [0, 1, 2, 3, 4, 5, 6, 7].foldl (fun acc j => reflectedBit acc (b.getLsbD j)) c) 0xFFFFFFFF#32)

/-- One bit-step of CRC-32/MPEG-2 on a register that already holds the byte's bits. -/
def mpegBit (c : Word) : Word := (c <<< 1) ^^^ (if c.getLsbD 31 then 0x04C11DB7#32 else 0#32)

/-- CRC-32/MPEG-2: unreflected, no final complement. -/
def crcMpeg2 (bs : List Byte) : Word :=
  bs.foldl (fun (c : Word) (b : Byte) => (List.range 8).foldl (fun (acc : Word) _ => mpegBit acc)
    (c ^^^ (BitVec.setWidth 32 b <<< 24))) 0xFFFFFFFF#32

/-! ### Where a micro-step stores, and which register it writes -/

/-- The address the next micro-step of an operation stores a word to; `none` where it stores nothing. -/
def storeAddr : List OpFrame → Option Nat
  | .seq (.memWrite a _ :: _) :: _ => some a
  | .txWrite pkt _ _ _ j _ :: _ => some (pkt + 4 * j)
  | .txCtl p _ :: _ => some (txDescBase + 8 * p + 4)
  | .rxWrite _ dst _ j _ :: _ => some (dst + 4 * j)
  | _ => none

/-- The register the next micro-step of an operation writes, with the value; `none` where it writes none. -/
def writtenReg : List OpFrame → Option (Reg × Word)
  | .seq (.write r v :: _) :: _ => some (r, v)
  | .wpMadr reg _ :: _ => some (.madr, madrValue reg)
  | .wpMwtd value :: _ => some (.mwtd, value.setWidth 32)
  | .rpMadr reg :: _ => some (.madr, madrValue reg)
  | .rpMcmd :: _ => some (.mcmd, 1)
  | .rpClear :: _ => some (.mcmd, 0)
  | _ => none

/-- The register the next micro-step of an operation reads or writes; `none` where it makes no bus transaction. -/
def accessedReg : List OpFrame → Option Reg
  | .seq (.write r _ :: _) :: _ | .seq (.setBits r _ :: _) :: _ | .seq (.clrBits r _ :: _) :: _ => some r
  | .initRx :: _ | .initTx :: _ => some .command
  | .chkRx _ :: _ => some .rxProduceIndex
  | .chkTx _ :: _ => some .txProduceIndex
  | .wpMadr _ _ :: _ | .rpMadr _ :: _ => some .madr
  | .wpMwtd _ :: _ => some .mwtd
  | .rpMcmd :: _ | .rpClear :: _ => some .mcmd
  | .wpPoll _ :: _ | .rpPoll _ :: _ => some .mind
  | .rpData :: _ => some .mrdd
  | _ => none

end Sys2Proof.Machine
end

