-- ==== Sys2Proof/Certificates/Slice0/Obligations.lean ====
section
/-!
DEFINITION. The statements for the provers.  Each docstring names the rule of spec/ it states.
-/

open Sys2Proof Sys2Proof.Machine

/-! ### Encoding (spec/30_encoding.md) -/

/-- R152, R153, R156: decoding the encoding of a well-formed command gives the command back, with every argument. -/
def Obligations.DecodeOfEncode : Prop :=
  ∀ (len : Nat) (i : Instr), i.wellFormed len = true → decode (encode i) = some i

/-- R152, R153, R155: a line that decodes to a command is that command's encoding, so every command has one line. -/
def Obligations.EncodeOfDecode : Prop :=
  ∀ (l : Line) (i : Instr), decode l = some i → encode i = l

/-- R154: exactly which words are illegal, and that running one faults. -/
def Obligations.IllegalCommandWords : Prop :=
  ∀ (w : Word) (args : List Arg) (s : State),
    (decodeWord w = .illegal ↔
      (w.extractLsb' 30 2 = 3#2 ∨
        (w.getLsbD 30 = false ∧ (w.extractLsb' 12 18 ≠ 0#18 ∨ w.extractLsb' 0 2 ≠ 0#2)) ∨
        (w.extractLsb' 30 2 = 1#2 ∧
          (w.extractLsb' 8 22 ≠ 0#22 ∨
            w.extractLsb' 0 8 ∉
              [0x01#8, 0x02#8, 0x03#8, 0x04#8, 0x05#8, 0x06#8, 0x07#8, 0x08#8, 0x10#8, 0x11#8, 0x12#8, 0x13#8, 0x14#8,
               0x15#8, 0x20#8, 0x21#8, 0x22#8, 0x30#8, 0x31#8, 0x40#8, 0x50#8, 0x51#8, 0x52#8, 0x60#8, 0x61#8, 0x62#8,
               0x63#8])))) ∧
    (decodeWord w = .illegal → runLine ⟨w, args⟩ s = .fault (.illegalCommand (s.site none)))

/-- One word of each family, written out from R152, R153, R158 and R159, and some words of R154 and R162.  The rules give the word
only: that `decodeTableWord` puts an argument record of zeros beside it (`readRxPacket 0 0`, `wrIntClear 0`, `crc32 []`, ...) is the
model's choice (log entry 7), for R150 and R156 keep the record apart from the word. -/
def Obligations.EncodedWordsDecode : Prop :=
  decodeTableWord 32 0x00000000 = some .rdMac1 ∧
  decodeTableWord 32 0x80000FE8 = some (.wrIntClear 0) ∧
  decodeTableWord 32 0x00000FE0 = some .rdIntStatus ∧
  decodeTableWord 32 0x40000004 = some (.readRxPacket 0 0) ∧
  decodeTableWord 32 0x40000010 = some (.writePhy 0 0) ∧
  decodeTableWord 32 0x40000021 = some .deinit ∧
  decodeTableWord 32 0x40000030 = some (.setupCallback 0 none) ∧
  decodeTableWord 32 0x40000040 = some (.crc32 []) ∧
  decodeTableWord 32 0x40000051 = some (.memWrite32 0 0) ∧
  decodeTableWord 32 0x40000063 = some .halt ∧
  decodeTableWord 32 0xC0000000 = none ∧
  decodeTableWord 32 0x00000002 = none ∧
  decodeTableWord 32 0x40000009 = none ∧
  decodeTableWord 32 0x40000140 = none

/-- R160: a legal BUS word of an out-of-scope register is refused, one of an offset outside the map is unmapped, in both
directions, on a powered block. -/
def Obligations.UnmappedAndRefusedOffsets : Prop :=
  ∀ (dir : Dir) (off : BitVec 12) (args : List Arg) (s : State),
    off.extractLsb' 0 2 = 0#2 →
    (dir = .read ∧ args = [] ∨ dir = .write ∧ ∃ v : Word, args = [.num v.toNat]) →
    s.powered = true →
    (off ∈ [0x01C#12, 0x158#12, 0x15C#12, 0x160#12, 0x170#12, 0x174#12, 0xFF4#12] →
      runLine ⟨busWord dir off, args⟩ s = .fault (.refused (s.site (some off.toNat)))) ∧
    (off ∉ [0x000#12, 0x004#12, 0x008#12, 0x00C#12, 0x010#12, 0x014#12, 0x018#12, 0x01C#12, 0x020#12, 0x024#12, 0x028#12,
            0x02C#12, 0x030#12, 0x034#12, 0x040#12, 0x044#12, 0x048#12, 0x100#12, 0x104#12, 0x108#12, 0x10C#12, 0x110#12,
            0x114#12, 0x118#12, 0x11C#12, 0x120#12, 0x124#12, 0x128#12, 0x12C#12, 0x158#12, 0x15C#12, 0x160#12, 0x170#12,
            0x174#12, 0x200#12, 0x204#12, 0x208#12, 0x210#12, 0x214#12, 0xFE0#12, 0xFE4#12, 0xFE8#12, 0xFEC#12, 0xFF4#12] →
      runLine ⟨busWord dir off, args⟩ s = .fault (.unmapped (s.site (some off.toNat))))

/-- R157: a value outside its type, and an argument record of another shape, fault IllegalCommand; in every state, so before the
context check and the checks of the operation too, which is the model's inference (log entry 21). -/
def Obligations.IllFormedArguments : Prop :=
  (∀ (i : Instr) (s : State), i.wellFormed (curProg s).length = false →
    exec i s = .fault (.illegalCommand (s.site none))) ∧
  (∀ (o : Op) (args : List Arg) (s : State), opInstr o args = none →
    runLine ⟨opWord o.code, args⟩ s = .fault (.illegalCommand (s.site none))) ∧
  (∀ (off : BitVec 12) (args : List Arg) (s : State), args ≠ [] →
    runLine ⟨busWord .read off, args⟩ s = .fault (.illegalCommand (s.site none))) ∧
  (∀ (off : BitVec 12) (args : List Arg) (s : State), (∀ v : Word, args ≠ [.num v.toNat]) →
    runLine ⟨busWord .write off, args⟩ s = .fault (.illegalCommand (s.site none)))

/-! ### The step -/

/-- A step runs the command its line decodes to, in FG and in a callback body; inside an operation it runs the operation's next
micro-step (R551, R558).  The last two clauses are the model's choice and no rule of the spec: around the command the step passes
the turn to `Config.sched tick` and counts `tick` (log entry 3), or records the fault (log entry 14); and a word placed by
`withFetchWord`, with the argument record of zeros (log entry 7), is what the next step runs. -/
def Obligations.StepRunsDecodedCommand : Prop :=
  (∀ (s : State) (l : Line) (i : Instr), s.turn = .fg → s.irq = .idle → s.halted = false → s.fgOp = [] →
    s.prog[s.pc]? = some l → decode l = some i →
    step s = endStep (exec i s)) ∧
  (∀ (s : State) (l : Line) (i : Instr) (st : Word) (n : Fin 10) (id pc : Nat), s.turn = .irq →
    s.irq = .running st (.body n id pc []) → (bodyOf s id)[pc]? = some l → decode l = some i →
    step s = endStep (exec i s)) ∧
  (∀ s : State, s.turn = .fg → s.irq = .idle → s.halted = false → s.fgOp ≠ [] →
    step s = endStep (continueOp s)) ∧
  (∀ (s : State) (st : Word) (n : Fin 10) (id pc : Nat) (f : OpFrame) (fs : List OpFrame), s.turn = .irq →
    s.irq = .running st (.body n id pc (f :: fs)) →
    step s = endStep (continueOp s)) ∧
  (∀ (t : State) (f : Fault), endStep (.next t) = .next { t with turn := Config.sched t.tick, tick := t.tick + 1 } ∧
    endStep (.fault f) = .fault f.recorded) ∧
  (∀ (s : State) (w : Nat) (i : Instr), decodeTableWord 32 w = some i →
    step (s.withFetchWord 32 w) = endStep (exec i (s.withFetchWord 32 w)))

/-! ### BUS commands (spec/40_bus.md) -/

/-- R200, R203, R616: on an unpowered block every bus transaction faults Unpowered, at its offset: a BUS command's, also where its
offset has no in-scope register, the next micro-step's of an operation, the first of each command that begins with one, and DISPATCH's
own.  R202: on a powered one the seven read-only registers fault a write and the four write-only registers fault a read.  So those
eleven commands stop in every state. -/
def Obligations.PowerAndAccessRights : Prop :=
  ∀ (s : State) (v : Word),
    (s.powered = false → ∀ r : Reg,
      exec (rdInstr r) s = .fault (.unpowered (s.site (some r.offset.toNat))) ∧
      exec (wrInstr r v) s = .fault (.unpowered (s.site (some r.offset.toNat))) ∧
      (accessedReg (curOp s) = some r → continueOp s = .fault (.unpowered (s.site (some r.offset.toNat))))) ∧
    (s.powered = false → ∀ (dir : Dir) (off : BitVec 12) (args : List Arg), off.extractLsb' 0 2 = 0#2 →
      (dir = .read ∧ args = [] ∨ dir = .write ∧ ∃ w : Word, args = [.num w.toNat]) →
      runLine ⟨busWord dir off, args⟩ s = .fault (.unpowered (s.site (some off.toNat)))) ∧
    (s.powered = false → ∀ (st x : Word),
      (s.irq = .running st .start → irqStep s = .fault (.unpowered (s.site (some 0xFE0)))) ∧
      (s.irq = .running st (.readEnable x) → irqStep s = .fault (.unpowered (s.site (some 0xFE4)))) ∧
      (s.irq = .running st .clear → irqStep s = .fault (.unpowered (s.site (some 0xFE8)))) ∧
      (s.irq = .running st .wolClear → irqStep s = .fault (.unpowered (s.site (some 0x208))))) ∧
    (s.powered = false → ∀ (buf len kind mode : Word) (reg value enable : Nat) (mac : List Byte),
      reg < 32 → value < 65536 → enable < 2 → mac.length = 6 →
      (s.irq = .idle →
        exec .initRxRing s = .fault (.unpowered (s.site (some 0x100))) ∧
        exec .initTxRing s = .fault (.unpowered (s.site (some 0x100)))) ∧
      (s.txRingInit = true → 0 < len.toNat → len.toNat ≤ Config.frameBufSize → buf.toNat % 4 = 0 →
        exec (.writeTxPacket buf len) s = .fault (.unpowered (s.site (some 0x128)))) ∧
      (s.rxRingInit = true → len.toNat ≤ Config.frameBufSize → buf.toNat % 4 = 0 →
        exec (.readRxPacket buf len) s = .fault (.unpowered (s.site (some 0x118)))) ∧
      exec .advanceConsume s = .fault (.unpowered (s.site (some 0x118))) ∧
      exec .advanceProduce s = .fault (.unpowered (s.site (some 0x128))) ∧
      exec .checkReceiveIndex s = .fault (.unpowered (s.site (some 0x118))) ∧
      exec .checkTransmitIndex s = .fault (.unpowered (s.site (some 0x12C))) ∧
      exec (.writePhy reg value) s = .fault (.unpowered (s.site (some 0x028))) ∧
      exec (.readPhy reg) s = .fault (.unpowered (s.site (some 0x028))) ∧
      exec .detectPhy s = .fault (.unpowered (s.site (some 0x028))) ∧
      exec (.checkStatus kind) s = .fault (.unpowered (s.site (some 0x028))) ∧
      (mode.toNat ≤ 4 → exec (.setMode mode) s = .fault (.unpowered (s.site (some 0x028)))) ∧
      exec .updateStatus s = .fault (.unpowered (s.site (some 0x028))) ∧
      exec (.setHashFilter mac enable) s = .fault (.unpowered (s.site (some
        (if ((crc32 mac).extractLsb' 23 6).toNat < 32 then 0x210 else 0x214))))) ∧
    (s.powered = true →
      exec (.wrMrdd v) s = .fault (.roWrite (s.site (some 0x030))) ∧
      exec (.wrMind v) s = .fault (.roWrite (s.site (some 0x034))) ∧
      exec (.wrStatus v) s = .fault (.roWrite (s.site (some 0x104))) ∧
      exec (.wrRxProduceIndex v) s = .fault (.roWrite (s.site (some 0x114))) ∧
      exec (.wrTxConsumeIndex v) s = .fault (.roWrite (s.site (some 0x12C))) ∧
      exec (.wrRxFilterWoLStatus v) s = .fault (.roWrite (s.site (some 0x204))) ∧
      exec (.wrIntStatus v) s = .fault (.roWrite (s.site (some 0xFE0))) ∧
      exec .rdMwtd s = .fault (.woRead (s.site (some 0x02C))) ∧
      exec .rdRxFilterWoLClear s = .fault (.woRead (s.site (some 0x208))) ∧
      exec .rdIntClear s = .fault (.woRead (s.site (some 0xFE8))) ∧
      exec .rdIntSet s = .fault (.woRead (s.site (some 0xFEC))))

/-- R204 to R210, R218: reads and writes of the MAC registers and the station address registers. -/
def Obligations.MacRegisterAccess : Prop :=
  ∀ (s : State) (v : Word), s.powered = true →
    exec .rdMac1 s = .next (readDone .mac1 s.regs.mac1 s) ∧
    exec (.wrMac1 v) s = .next (writeDone .mac1 v { s.regs with mac1 := v &&& 0x0000CF1F } s) ∧
    exec .rdMac2 s = .next (readDone .mac2 s.regs.mac2 s) ∧
    exec (.wrMac2 v) s = .next (writeDone .mac2 v { s.regs with mac2 := v &&& 0x000073FF } s) ∧
    exec .rdIpgt s = .next (readDone .ipgt s.regs.ipgt s) ∧
    exec (.wrIpgt v) s = .next (writeDone .ipgt v { s.regs with ipgt := v &&& 0x0000007F } s) ∧
    exec .rdIpgr s = .next (readDone .ipgr s.regs.ipgr s) ∧
    exec (.wrIpgr v) s = .next (writeDone .ipgr v { s.regs with ipgr := v &&& 0x00007F7F } s) ∧
    exec .rdClrt s = .next (readDone .clrt s.regs.clrt s) ∧
    exec (.wrClrt v) s = .next (writeDone .clrt v { s.regs with clrt := v &&& 0x00003F0F } s) ∧
    exec .rdMaxf s = .next (readDone .maxf s.regs.maxf s) ∧
    exec (.wrMaxf v) s = .next (writeDone .maxf v { s.regs with maxf := v &&& 0x0000FFFF } s) ∧
    exec .rdSupp s = .next (readDone .supp s.regs.supp s) ∧
    exec (.wrSupp v) s = .next (writeDone .supp v { s.regs with supp := v &&& 0x00000900 } s) ∧
    exec .rdSa0 s = .next (readDone .sa0 s.regs.sa0 s) ∧
    exec (.wrSa0 v) s = .next (writeDone .sa0 v { s.regs with sa0 := v &&& 0x0000FFFF } s) ∧
    exec .rdSa1 s = .next (readDone .sa1 s.regs.sa1 s) ∧
    exec (.wrSa1 v) s = .next (writeDone .sa1 v { s.regs with sa1 := v &&& 0x0000FFFF } s) ∧
    exec .rdSa2 s = .next (readDone .sa2 s.regs.sa2 s) ∧
    exec (.wrSa2 v) s = .next (writeDone .sa2 v { s.regs with sa2 := v &&& 0x0000FFFF } s)

/-- R225 to R232: reads and writes of the receive filter registers and the module interrupt registers. -/
def Obligations.FilterAndInterruptRegisterAccess : Prop :=
  ∀ (s : State) (v : Word), s.powered = true →
    exec .rdRxFilterCtrl s = .next (readDone .rxFilterCtrl s.regs.rxFilterCtrl s) ∧
    exec (.wrRxFilterCtrl v) s = .next (writeDone .rxFilterCtrl v { s.regs with rxFilterCtrl := v &&& 0x0000303F } s) ∧
    exec .rdRxFilterWoLStatus s = .next (readDone .rxFilterWoLStatus s.regs.rxFilterWoLStatus s) ∧
    exec (.wrRxFilterWoLStatus v) s = .fault (.roWrite (s.site (some 0x204))) ∧
    exec .rdRxFilterWoLClear s = .fault (.woRead (s.site (some 0x208))) ∧
    exec (.wrRxFilterWoLClear v) s = .next (writeDone .rxFilterWoLClear v
      { s.regs with rxFilterWoLStatus := s.regs.rxFilterWoLStatus &&& ~~~(v &&& 0x000001BF) } s) ∧
    exec .rdHashFilterL s = .next (readDone .hashFilterL s.regs.hashFilterL s) ∧
    exec (.wrHashFilterL v) s = .next (writeDone .hashFilterL v { s.regs with hashFilterL := v } s) ∧
    exec .rdHashFilterH s = .next (readDone .hashFilterH s.regs.hashFilterH s) ∧
    exec (.wrHashFilterH v) s = .next (writeDone .hashFilterH v { s.regs with hashFilterH := v } s) ∧
    exec .rdIntStatus s = .next (readDone .intStatus s.regs.intStatus s) ∧
    exec (.wrIntStatus v) s = .fault (.roWrite (s.site (some 0xFE0))) ∧
    exec .rdIntEnable s = .next (readDone .intEnable s.regs.intEnable s) ∧
    exec (.wrIntEnable v) s = .next (writeDone .intEnable v { s.regs with intEnable := v &&& 0x000030FF } s) ∧
    exec .rdIntClear s = .fault (.woRead (s.site (some 0xFE8))) ∧
    exec (.wrIntClear v) s = .next (writeDone .intClear v
      { s.regs with intStatus := s.regs.intStatus &&& ~~~(v &&& 0x000030FF) } s) ∧
    exec .rdIntSet s = .fault (.woRead (s.site (some 0xFEC))) ∧
    exec (.wrIntSet v) s = .next (writeDone .intSet v
      { s.regs with intStatus := s.regs.intStatus ||| (v &&& 0x000030FF) } s)

/-- R211 to R216: the MII management registers: their reads, the writes they accept with the cycle each starts, and the writes
they fault, each fault in the order of its rule. -/
def Obligations.MiiRegisterAccess : Prop :=
  ∀ (s : State) (v : Word), s.powered = true →
    exec .rdMcfg s = .next (readDone .mcfg s.regs.mcfg s) ∧
    exec .rdMcmd s = .next (readDone .mcmd s.regs.mcmd s) ∧
    exec .rdMadr s = .next (readDone .madr s.regs.madr s) ∧
    exec .rdMrdd s = .next (readDone .mrdd s.regs.mrdd s) ∧
    exec .rdMwtd s = .fault (.woRead (s.site (some 0x02C))) ∧
    exec (.wrMrdd v) s = .fault (.roWrite (s.site (some 0x030))) ∧
    (s.mii = .idle →
      exec (.wrMcfg v) s = .next (writeDone .mcfg v { s.regs with mcfg := v &&& 0x0000803F } s) ∧
      exec (.wrMadr v) s = .next (writeDone .madr v { s.regs with madr := v &&& 0x00001F1F } s)) ∧
    (s.mii = .idle → s.regs.mcfg.getLsbD 15 = false →
      exec (.wrMwtd v) s = .next (writeDone .mwtd v s.regs { s with
        mii := .write (s.regs.madr.extractLsb' 8 5) (s.regs.madr.extractLsb' 0 5) (v.extractLsb' 0 16) })) ∧
    (s.mii = .idle → v.getLsbD 1 = false → ¬(s.regs.mcmd.getLsbD 0 = false ∧ v.getLsbD 0 = true) →
      exec (.wrMcmd v) s = .next (writeDone .mcmd v { s.regs with mcmd := v &&& 0x00000001 } s)) ∧
    (s.mii = .idle → v.getLsbD 1 = false → s.regs.mcmd.getLsbD 0 = false → v.getLsbD 0 = true →
      s.regs.mcfg.getLsbD 15 = false →
      exec (.wrMcmd v) s = .next (writeDone .mcmd v { s.regs with mcmd := v &&& 0x00000001 } { s with
        mii := .read (s.regs.madr.extractLsb' 8 5) (s.regs.madr.extractLsb' 0 5) })) ∧
    (s.mii ≠ .idle →
      exec (.wrMcfg v) s = .fault (.miiBusyOverlap (s.site (some 0x020))) ∧
      exec (.wrMadr v) s = .fault (.miiBusyOverlap (s.site (some 0x028))) ∧
      exec (.wrMwtd v) s = .fault (.miiBusyOverlap (s.site (some 0x02C)))) ∧
    (s.mii = .idle → s.regs.mcfg.getLsbD 15 = true →
      exec (.wrMwtd v) s = .fault (.miiInReset (s.site (some 0x02C)))) ∧
    (v.getLsbD 1 = true → exec (.wrMcmd v) s = .fault (.refused (s.site (some 0x024)))) ∧
    (v.getLsbD 1 = false → s.mii ≠ .idle → exec (.wrMcmd v) s = .fault (.miiBusyOverlap (s.site (some 0x024)))) ∧
    (v.getLsbD 1 = false → s.mii = .idle → s.regs.mcmd.getLsbD 0 = false → v.getLsbD 0 = true →
      s.regs.mcfg.getLsbD 15 = true → exec (.wrMcmd v) s = .fault (.miiInReset (s.site (some 0x024))))

/-- R217, R219: what a read of MIND and of Status returns.  Bit 3 of MIND and bits 1:0 of Status are draws: the statement says
nothing of them. -/
def Obligations.IndicatorReads : Prop :=
  ∀ s : State, s.powered = true →
    (∃ m : Word, exec .rdMind s = .next (readDone .mind m s) ∧
      (m.getLsbD 0 = true ↔ s.mii ≠ .idle) ∧ m.getLsbD 1 = false ∧
      (m.getLsbD 2 = true ↔ ∃ phy reg, s.mii = .read phy reg) ∧ m &&& 0xFFFFFFF0 = 0) ∧
    (∃ m : Word, exec .rdStatus s = .next (readDone .status m s) ∧ m &&& 0xFFFFFFFC = 0)

/-- R220: a write to Command stores its non-action bits after the reset actions of bits 3, 4 and 5, in one step. -/
def Obligations.CommandWrite : Prop :=
  ∀ (s : State) (v : Word), s.powered = true →
    exec .rdCommand s = .next (readDone .command s.regs.command s) ∧
    ∃ r : Regs,
      exec (.wrCommand v) s = .next (writeDone .command v r { s with
        rxMidFrame := if v.getLsbD 3 || v.getLsbD 5 then false else s.rxMidFrame
        rxRemain := if v.getLsbD 3 || v.getLsbD 5 then [] else s.rxRemain }) ∧
      r.command = v &&& 0x000007C3 ∧
      { s.regs with
        command := r.command, rxDescriptor := r.rxDescriptor, rxStatus := r.rxStatus
        rxDescriptorNumber := r.rxDescriptorNumber, rxProduceIndex := r.rxProduceIndex
        rxConsumeIndex := r.rxConsumeIndex, txDescriptor := r.txDescriptor, txStatus := r.txStatus
        txDescriptorNumber := r.txDescriptorNumber, txProduceIndex := r.txProduceIndex
        txConsumeIndex := r.txConsumeIndex, rxFilterCtrl := r.rxFilterCtrl, rxFilterWoLStatus := r.rxFilterWoLStatus
        hashFilterL := r.hashFilterL, hashFilterH := r.hashFilterH, intStatus := r.intStatus
        intEnable := r.intEnable } = r ∧
      (v.getLsbD 3 = true →
        r.rxDescriptor = 0 ∧ r.rxStatus = 0 ∧ r.rxDescriptorNumber = 0 ∧ r.rxProduceIndex = 0 ∧ r.rxConsumeIndex = 0 ∧
        r.txDescriptor = 0 ∧ r.txStatus = 0 ∧ r.txDescriptorNumber = 0 ∧ r.txProduceIndex = 0 ∧ r.txConsumeIndex = 0 ∧
        r.rxFilterCtrl = 0 ∧ r.rxFilterWoLStatus = 0 ∧ r.hashFilterL = 0 ∧ r.hashFilterH = 0 ∧ r.intStatus = 0 ∧
        r.intEnable = 0) ∧
      (v.getLsbD 3 = false →
        { s.regs with command := r.command, rxProduceIndex := r.rxProduceIndex, txConsumeIndex := r.txConsumeIndex } = r ∧
        r.rxProduceIndex = (if v.getLsbD 5 then 0 else s.regs.rxProduceIndex) ∧
        r.txConsumeIndex = (if v.getLsbD 4 then 0 else s.regs.txConsumeIndex))

/-- R221: the six ring configuration registers. -/
def Obligations.RingConfigurationWrites : Prop :=
  ∀ (s : State) (v : Word), s.powered = true →
    exec .rdRxDescriptor s = .next (readDone .rxDescriptor s.regs.rxDescriptor s) ∧
    exec .rdRxStatus s = .next (readDone .rxStatus s.regs.rxStatus s) ∧
    exec .rdRxDescriptorNumber s = .next (readDone .rxDescriptorNumber s.regs.rxDescriptorNumber s) ∧
    exec .rdTxDescriptor s = .next (readDone .txDescriptor s.regs.txDescriptor s) ∧
    exec .rdTxStatus s = .next (readDone .txStatus s.regs.txStatus s) ∧
    exec .rdTxDescriptorNumber s = .next (readDone .txDescriptorNumber s.regs.txDescriptorNumber s) ∧
    (s.regs.command.getLsbD 0 = true →
      exec (.wrRxDescriptor v) s = .fault (.ringConfigWhileEnabled (s.site (some 0x108))) ∧
      exec (.wrRxStatus v) s = .fault (.ringConfigWhileEnabled (s.site (some 0x10C))) ∧
      exec (.wrRxDescriptorNumber v) s = .fault (.ringConfigWhileEnabled (s.site (some 0x110)))) ∧
    (s.regs.command.getLsbD 1 = true →
      exec (.wrTxDescriptor v) s = .fault (.ringConfigWhileEnabled (s.site (some 0x11C))) ∧
      exec (.wrTxStatus v) s = .fault (.ringConfigWhileEnabled (s.site (some 0x120))) ∧
      exec (.wrTxDescriptorNumber v) s = .fault (.ringConfigWhileEnabled (s.site (some 0x124)))) ∧
    (s.regs.command.getLsbD 0 = false →
      (v.extractLsb' 0 2 = 0#2 → exec (.wrRxDescriptor v) s =
        .next (writeDone .rxDescriptor v { s.regs with rxDescriptor := v &&& 0xFFFFFFFC } s)) ∧
      (v.extractLsb' 0 2 ≠ 0#2 → exec (.wrRxDescriptor v) s = .fault (.misaligned (s.site (some 0x108)))) ∧
      (v.extractLsb' 0 3 = 0#3 → exec (.wrRxStatus v) s =
        .next (writeDone .rxStatus v { s.regs with rxStatus := v &&& 0xFFFFFFF8 } s)) ∧
      (v.extractLsb' 0 3 ≠ 0#3 → exec (.wrRxStatus v) s = .fault (.misaligned (s.site (some 0x10C)))) ∧
      (s.regs.rxProduceIndex.toNat ≤ v.toNat % 65536 → s.regs.rxConsumeIndex.toNat ≤ v.toNat % 65536 →
        exec (.wrRxDescriptorNumber v) s =
          .next (writeDone .rxDescriptorNumber v { s.regs with rxDescriptorNumber := v &&& 0x0000FFFF } s)) ∧
      (s.regs.rxProduceIndex.toNat > v.toNat % 65536 ∨ s.regs.rxConsumeIndex.toNat > v.toNat % 65536 →
        exec (.wrRxDescriptorNumber v) s = .fault (.indexOutOfRange (s.site (some 0x110))))) ∧
    (s.regs.command.getLsbD 1 = false →
      (v.extractLsb' 0 2 = 0#2 → exec (.wrTxDescriptor v) s =
        .next (writeDone .txDescriptor v { s.regs with txDescriptor := v &&& 0xFFFFFFFC } s)) ∧
      (v.extractLsb' 0 2 ≠ 0#2 → exec (.wrTxDescriptor v) s = .fault (.misaligned (s.site (some 0x11C)))) ∧
      (v.extractLsb' 0 2 = 0#2 → exec (.wrTxStatus v) s =
        .next (writeDone .txStatus v { s.regs with txStatus := v &&& 0xFFFFFFFC } s)) ∧
      (v.extractLsb' 0 2 ≠ 0#2 → exec (.wrTxStatus v) s = .fault (.misaligned (s.site (some 0x120)))) ∧
      (s.regs.txProduceIndex.toNat ≤ v.toNat % 65536 → s.regs.txConsumeIndex.toNat ≤ v.toNat % 65536 →
        exec (.wrTxDescriptorNumber v) s =
          .next (writeDone .txDescriptorNumber v { s.regs with txDescriptorNumber := v &&& 0x0000FFFF } s)) ∧
      (s.regs.txProduceIndex.toNat > v.toNat % 65536 ∨ s.regs.txConsumeIndex.toNat > v.toNat % 65536 →
        exec (.wrTxDescriptorNumber v) s = .fault (.indexOutOfRange (s.site (some 0x124)))))

/-- R222, R223, R224: the four ring indices.  The differences are on the integers, `%` is the non-negative remainder of R9. -/
def Obligations.RingIndexWrites : Prop :=
  ∀ (s : State) (v : Word), s.powered = true →
    exec .rdRxProduceIndex s = .next (readDone .rxProduceIndex s.regs.rxProduceIndex s) ∧
    exec .rdRxConsumeIndex s = .next (readDone .rxConsumeIndex s.regs.rxConsumeIndex s) ∧
    exec .rdTxProduceIndex s = .next (readDone .txProduceIndex s.regs.txProduceIndex s) ∧
    exec .rdTxConsumeIndex s = .next (readDone .txConsumeIndex s.regs.txConsumeIndex s) ∧
    exec (.wrRxProduceIndex v) s = .fault (.roWrite (s.site (some 0x114))) ∧
    exec (.wrTxConsumeIndex v) s = .fault (.roWrite (s.site (some 0x12C))) ∧
    (∀ (n c p NR : Int), n = v.toNat % 65536 → c = s.regs.rxConsumeIndex.toNat % 65536 →
      p = s.regs.rxProduceIndex.toNat % 65536 → NR = s.regs.rxDescriptorNumber.toNat % 65536 + 1 →
      (n ≥ NR → exec (.wrRxConsumeIndex v) s = .fault (.indexOutOfRange (s.site (some 0x118)))) ∧
      (n < NR → s.regs.command.getLsbD 0 = true → (n - c) % NR > (p - c) % NR →
        exec (.wrRxConsumeIndex v) s = .fault (.ownershipViolation (s.site (some 0x118)))) ∧
      (n < NR → (s.regs.command.getLsbD 0 = true → (n - c) % NR ≤ (p - c) % NR) →
        exec (.wrRxConsumeIndex v) s =
          .next (writeDone .rxConsumeIndex v { s.regs with rxConsumeIndex := v &&& 0x0000FFFF } s))) ∧
    (∀ (n c p NT : Int), n = v.toNat % 65536 → c = s.regs.txConsumeIndex.toNat % 65536 →
      p = s.regs.txProduceIndex.toNat % 65536 → NT = s.regs.txDescriptorNumber.toNat % 65536 + 1 →
      (n ≥ NT → exec (.wrTxProduceIndex v) s = .fault (.indexOutOfRange (s.site (some 0x128)))) ∧
      (n < NT → s.regs.command.getLsbD 1 = true → (n - p) % NT > (c - 1 - p) % NT →
        exec (.wrTxProduceIndex v) s = .fault (.ownershipViolation (s.site (some 0x128)))) ∧
      (n < NT → (s.regs.command.getLsbD 1 = true → (n - p) % NT ≤ (c - 1 - p) % NT) →
        exec (.wrTxProduceIndex v) s =
          .next (writeDone .txProduceIndex v { s.regs with txProduceIndex := v &&& 0x0000FFFF } s)))

/-- R233: a read that follows an accepted write of a readable and writable register returns the value written, without its
reserved bits; a DMA step changes neither RxConsumeIndex nor TxProduceIndex. -/
def Obligations.ReadAfterWrite : Prop :=
  (∀ (r : Reg) (mask v : Word) (s t : State),
    (r, mask) ∈ [(Reg.mac1, 0x0000CF1F#32), (Reg.mac2, 0x000073FF#32), (Reg.ipgt, 0x0000007F#32),
      (Reg.ipgr, 0x00007F7F#32), (Reg.clrt, 0x00003F0F#32), (Reg.maxf, 0x0000FFFF#32), (Reg.supp, 0x00000900#32),
      (Reg.mcfg, 0x0000803F#32), (Reg.mcmd, 0x00000001#32), (Reg.madr, 0x00001F1F#32), (Reg.sa0, 0x0000FFFF#32),
      (Reg.sa1, 0x0000FFFF#32), (Reg.sa2, 0x0000FFFF#32), (Reg.command, 0x000007C3#32),
      (Reg.rxDescriptor, 0xFFFFFFFC#32), (Reg.rxStatus, 0xFFFFFFF8#32), (Reg.rxDescriptorNumber, 0x0000FFFF#32),
      (Reg.rxConsumeIndex, 0x0000FFFF#32), (Reg.txDescriptor, 0xFFFFFFFC#32), (Reg.txStatus, 0xFFFFFFFC#32),
      (Reg.txDescriptorNumber, 0x0000FFFF#32), (Reg.txProduceIndex, 0x0000FFFF#32), (Reg.rxFilterCtrl, 0x0000303F#32),
      (Reg.hashFilterL, 0xFFFFFFFF#32), (Reg.hashFilterH, 0xFFFFFFFF#32), (Reg.intEnable, 0x000030FF#32)] →
    exec (wrInstr r v) s = .next t → exec (rdInstr r) t = .next (readDone r (v &&& mask) t)) ∧
  (∀ (o : RxOffer) (d : BitVec 10) (s : State),
    (rxdmaStep o s).regs.rxConsumeIndex = s.regs.rxConsumeIndex ∧
    (rxdmaStep o s).regs.txProduceIndex = s.regs.txProduceIndex ∧
    (txdmaStep d s).regs.rxConsumeIndex = s.regs.rxConsumeIndex ∧
    (txdmaStep d s).regs.txProduceIndex = s.regs.txProduceIndex)

/-- The register frame of every command and of every micro-step of an operation (R204 to R232, R14): a BUS-R leaves every register;
a BUS-W changes only what its rule names; a command that is neither leaves every register, but for the first micro-step of the six PHY
commands, which writes MADR (R352, R358), and of a DEINIT of a powered block, which writes 0 to IntEnable (R404); a micro-step
changes only what the register write at its top names.  What a command's own first micro-step leaves of the rest of the block
stands in the third part. -/
def Obligations.RegisterFrames : Prop :=
  (∀ (r : Reg) (s t : State), exec (rdInstr r) s = .next t → t.regs = s.regs ∧ t.mii = s.mii ∧ t.mem = s.mem) ∧
  (∀ (r : Reg) (v : Word) (s t : State), exec (wrInstr r v) s = .next t →
    t.mem = s.mem ∧ t.powered = s.powered ∧ t.cb = s.cb ∧ t.drv = s.drv ∧ t.link = s.link ∧
    t.rxRingInit = s.rxRingInit ∧ t.txRingInit = s.txRingInit ∧ t.ret = s.ret ∧ t.irqRet = s.irqRet ∧
    (r ≠ .mwtd → r ≠ .mcmd → t.mii = s.mii) ∧
    (r ≠ .command → t.rxMidFrame = s.rxMidFrame ∧ t.rxRemain = s.rxRemain) ∧
    (∀ q : Reg, q ≠ r → q ≠ .mind → q ≠ .status → r ≠ .command →
      (r, q) ∉ [(Reg.rxFilterWoLClear, Reg.rxFilterWoLStatus), (Reg.intClear, Reg.intStatus),
        (Reg.intSet, Reg.intStatus)] → readReg q t = readReg q s)) ∧
  (∀ (i : Instr) (s t : State) (madr : Nat → Regs), exec i s = .next t → (∀ (r : Reg) (v : Word), i ≠ wrInstr r v) →
    (∀ reg, madr reg = { s.regs with madr := BitVec.ofNat 32 (256 + reg) }) →
    (∀ reg value, i = .writePhy reg value → t.regs = madr reg) ∧ (∀ reg, i = .readPhy reg → t.regs = madr reg) ∧
    (i = .detectPhy → t.regs = madr 2) ∧ (∀ kind, i = .checkStatus kind → t.regs = madr 1) ∧
    (∀ mode, i = .setMode mode → t.regs = if mode.toNat ≤ 4 then madr 0 else s.regs) ∧
    (i = .updateStatus → t.regs = madr 1) ∧
    (i = .deinit → t.regs = if s.powered then { s.regs with intEnable := 0 } else s.regs) ∧
    ((∀ reg value, i ≠ .writePhy reg value) → (∀ reg, i ≠ .readPhy reg) → i ≠ .detectPhy →
      (∀ kind, i ≠ .checkStatus kind) → (∀ mode, i ≠ .setMode mode) → i ≠ .updateStatus → i ≠ .deinit →
      t.regs = s.regs) ∧
    t.mii = s.mii ∧ t.rxRingInit = s.rxRingInit ∧ t.txRingInit = s.txRingInit ∧ t.rxMidFrame = s.rxMidFrame ∧
    t.rxRemain = s.rxRemain ∧ ((∀ mask fn, i ≠ .setupCallback mask fn) → t.cb = s.cb) ∧
    ((∀ mac mode, i ≠ .init mac mode) → t.powered = s.powered ∧ (i ≠ .deinit → t.drv = s.drv ∧ t.link = s.link))) ∧
  (∀ s t : State, continueOp s = .next t →
    t.regs = s.regs ∨ ∃ (r : Reg) (v : Word), writtenReg (curOp s) = some (r, v) ∧ t.regs = writeRegs r v s.regs)

/-! ### Memory (spec/20_memory.md) -/

/-- R86, R101: every byte of memory is unchanged by a command, but for the four bytes MEM_WRITE32 stores; and by a micro-step
of an operation, but for the four bytes at the address the micro-step stores to. -/
def Obligations.MemoryFrames : Prop :=
  (∀ (i : Instr) (s t : State), exec i s = .next t → ∀ a : Nat,
    (∀ addr v : Word, i = .memWrite32 addr v → a < addr.toNat ∨ addr.toNat + 4 ≤ a) →
    Memory.read t.mem a = Memory.read s.mem a) ∧
  (∀ s t : State, continueOp s = .next t → ∀ a : Nat,
    (∀ b : Nat, storeAddr (curOp s) = some b → a < b ∨ b + 4 ≤ a) →
    Memory.read t.mem a = Memory.read s.mem a)

/-- R240, R241: MEM_READ32 and MEM_WRITE32, with their faults in order.  A read of a hardware-owned slot of an enabled ring
returns a draw, of which the statement says nothing.  R120: an access is to a hardware-owned slot exactly when it meets the descriptor,
the status entry or the frame buffer of an RX slot outside C .. P - 1 (mod NR) while RX is enabled, or of a TX slot in C .. P - 1 (mod NT)
while TX is enabled.  Which bytes a slot covers, and that the enable bits of Command say when, is the model's choice, log entries 9 to 11
and 26. -/
def Obligations.HostMemoryAccess : Prop :=
  (∀ (s : State) (a : Nat) (NR NT : Nat) (PR CR PT CT : Int) (covers : Nat → Nat → Nat → Prop),
    NR = s.regs.rxDescriptorNumber.toNat % 65536 + 1 → NT = s.regs.txDescriptorNumber.toNat % 65536 + 1 →
    PR = s.regs.rxProduceIndex.toNat % 65536 → CR = s.regs.rxConsumeIndex.toNat % 65536 →
    PT = s.regs.txProduceIndex.toNat % 65536 → CT = s.regs.txConsumeIndex.toNat % 65536 →
    (∀ d st n : Nat, covers d st n ↔ (a < d + 8 ∧ d < a + 4) ∨ (a < st + n ∧ st < a + 4) ∨
      (a < (Memory.readWord s.mem d).toNat + Config.frameBufSize ∧ (Memory.readWord s.mem d).toNat < a + 4)) →
    (s.regs.command.getLsbD 0 = false → s.regs.command.getLsbD 1 = false → hwOwned s a = false) ∧
    (hwOwned s a = true ↔
      (s.regs.command.getLsbD 0 = true ∧ ∃ i : Nat, i < NR ∧ (PR - CR) % (NR : Int) ≤ ((i : Int) - CR) % (NR : Int) ∧
        covers (s.regs.rxDescriptor.toNat + 8 * i) (s.regs.rxStatus.toNat + 8 * i) 8) ∨
      (s.regs.command.getLsbD 1 = true ∧ ∃ i : Nat, i < NT ∧ ((i : Int) - CT) % (NT : Int) < (PT - CT) % (NT : Int) ∧
        covers (s.regs.txDescriptor.toNat + 8 * i) (s.regs.txStatus.toNat + 4 * i) 4))) ∧
  (∀ (addr value : Word) (s : State) (a : Nat), a = addr.toNat →
    (addr.extractLsb' 0 2 ≠ 0#2 →
      exec (.memRead32 addr) s = .fault (.misaligned (s.site (some a))) ∧
      exec (.memWrite32 addr value) s = .fault (.misaligned (s.site (some a)))) ∧
    (addr.extractLsb' 0 2 = 0#2 → Config.emacBase ≤ a + 3 → a ≤ Config.emacBase + 0xFFF →
      exec (.memRead32 addr) s = .fault (.badAddress (s.site (some a))) ∧
      exec (.memWrite32 addr value) s = .fault (.badAddress (s.site (some a)))) ∧
    (addr.extractLsb' 0 2 = 0#2 → (a + 3 < Config.emacBase ∨ Config.emacBase + 0xFFF < a) →
      (hwOwned s a = true →
        (∃ d : Word, exec (.memRead32 addr) s = .next ((s.log (.mem s.agent a 4 .read d)).finish d)) ∧
        exec (.memWrite32 addr value) s = .fault (.ownershipViolation (s.site (some a)))) ∧
      (hwOwned s a = false →
        (∃ d : Word, exec (.memRead32 addr) s = .next ((s.log (.mem s.agent a 4 .read d)).finish d) ∧
          d.toNat = (Memory.read s.mem a).toNat + (Memory.read s.mem (a + 1)).toNat * 2 ^ 8 +
            (Memory.read s.mem (a + 2)).toNat * 2 ^ 16 + (Memory.read s.mem (a + 3)).toNat * 2 ^ 24) ∧
        (∃ m : Memory, exec (.memWrite32 addr value) s =
            .next ({ s with mem := m }.log (.mem s.agent a 4 .write value)).next ∧
          (∀ k : Nat, k < 4 → (Memory.read m (a + k)).toNat = value.toNat / 2 ^ (8 * k) % 256) ∧
          (∀ b : Nat, b < a ∨ a + 4 ≤ b → Memory.read m b = Memory.read s.mem b)))))

/-! ### Program control (spec/47_program.md) -/

/-- R553 to R557, R242: the control commands and DELAY_MS, in FG and in a callback body, where reaching the end of the body ends
it.  FG takes no step once it has halted or run off its end, and leaves the state as it is then (the model's inference and choice,
log entries 18 and 3); that HALT leaves FG's `pc` at its line is the model's inference too (log entry 29).  A run has ended
normally, the whole state being its end state, exactly when FG has halted, by HALT or by running off its end, and IRQ is idle; a
faulted run has no end state. -/
def Obligations.ControlCommands : Prop :=
  (∀ (s : State) (imm n : Word) (target : Nat), s.irq = .idle →
    (target ≤ s.prog.length →
      exec (.beq imm target) s = .next { s with pc := if s.ret = imm then target else s.pc + 1, fgOp := [] } ∧
      exec (.bne imm target) s = .next { s with pc := if s.ret ≠ imm then target else s.pc + 1, fgOp := [] } ∧
      exec (.jmp target) s = .next { s with pc := target, fgOp := [] }) ∧
    exec .halt s = .next { s with halted := true, fgOp := [] } ∧
    runEnd (exec .halt s) = some (.normal { s with halted := true, fgOp := [] }) ∧
    exec (.delayMs n) s = .next { s with pc := s.pc + 1, fgOp := [], hist := .delayMs n :: s.hist } ∧
    (s.halted = true → fgStep s = .next s) ∧
    (s.prog.length ≤ s.pc → s.fgOp = [] → fgStep s = .next s)) ∧
  (∀ (s : State) (st imm n : Word) (k : Fin 10) (id pc : Nat) (op : List OpFrame) (target : Nat) (at_ : Nat → State → State),
    s.irq = .running st (.body k id pc op) →
    (∀ (p : Nat) (u : State), at_ p u =
      if p < (bodyOf s id).length then { u with irq := .running st (.body k id p []) } else leaveBody st k u) →
    (target ≤ (bodyOf s id).length →
      exec (.beq imm target) s = .next (at_ (if s.irqRet = imm then target else pc + 1) s) ∧
      exec (.bne imm target) s = .next (at_ (if s.irqRet ≠ imm then target else pc + 1) s) ∧
      exec (.jmp target) s = .next (at_ target s)) ∧
    exec .halt s = .next (leaveBody st k s) ∧
    exec (.delayMs n) s = .next (at_ (pc + 1) { s with hist := .delayMs n :: s.hist })) ∧
  (∀ s : State,
    (s.irq = .idle ∧ (s.halted = true ∨ s.fgOp = [] ∧ s.prog.length ≤ s.pc) → runEnd (.next s) = some (.normal s)) ∧
    (¬(s.irq = .idle ∧ (s.halted = true ∨ s.fgOp = [] ∧ s.prog.length ≤ s.pc)) → runEnd (.next s) = none)) ∧
  (∀ f : Fault, runEnd (.fault f) = some (.fault f))

/-! ### CRC (spec/45_crc.md) -/

/-- R480, R481: CRC32 is one step that returns the value the bit-serial loop computes, which is that of the nibble form, and
changes nothing else; it runs in every state. -/
def Obligations.Crc32NibbleForm : Prop :=
  ∀ (data : List Byte) (s : State) (c : Word),
    c = data.foldl (fun (c : Word) (b : Byte) => [0, 1, 2, 3, 4, 5, 6, 7].foldl
      (fun (c : Word) (j : Nat) => (c <<< 1) ^^^ (if c.getLsbD 31 ^^ b.getLsbD j then 0x04C11DB7#32 else 0#32)) c) 0xFFFFFFFF#32 →
    c = data.foldl crcByteNibbles 0xFFFFFFFF#32 ∧
    exec (.crc32 data) s = .next (s.finish c) ∧
    (s.irq = .idle → exec (.crc32 data) s = .next { s with ret := c, pc := s.pc + 1, fgOp := [] })

/-- R484: the CRC is affine in the data, and it composes. -/
def Obligations.CrcAffinity : Prop :=
  (∀ x y : List Byte, x.length = y.length →
    crc32 (List.zipWith (· ^^^ ·) x y) = crc32 x ^^^ crc32 y ^^^ crc32 (List.replicate x.length 0#8)) ∧
  (∀ d e : List Byte, crc32 (d ++ e) = e.foldl crcByte (crc32 d))

/-- R483: the relation to the reflected CRC-32 and to CRC-32/MPEG-2. -/
def Obligations.CrcNamedVariants : Prop :=
  ∀ d : List Byte, crc32 d = (~~~(crcZlib d)).reverse ∧ crc32 d = crcMpeg2 (d.map BitVec.reverse)

/-! ### Rings (spec/41_ring.md) -/

/-- R300, R308: INIT_RX_RING, whole: its first step, its fault, and, with no other agent stepping and no word of the RX arrays in
a hardware-owned slot, every descriptor, every status entry, the four registers, the mark, and nothing else. -/
def Obligations.RxRingInitialised : Prop :=
  (∀ s : State, s.irq = .idle → s.powered = true →
    (s.regs.command.getLsbD 0 = true →
      exec .initRxRing s = .fault (.ringConfigWhileEnabled (s.site (some 0x100)))) ∧
    (s.regs.command.getLsbD 0 = false → exec .initRxRing s =
      .next { readLogged .command s.regs.command s with fgOp := [.seq rxRingSeq, .rxDone] })) ∧
  (∀ s : State, s.irq = .idle → s.powered = true → s.regs.command.getLsbD 0 = false →
    s.regs.rxProduceIndex.toNat < Config.nRx → s.regs.rxConsumeIndex.toNat < Config.nRx →
    (∀ a, rxDescBase ≤ a → a < txDescBase → hwOwned s a = false) →
    ∃ m : Memory,
      endsIn (aloneCommand .initRxRing (4 * Config.nRx + 4) s)
        { s with
          mem := m
          rxRingInit := true
          regs := { s.regs with
            rxDescriptor := BitVec.ofNat 32 rxDescBase
            rxStatus := BitVec.ofNat 32 rxStatBase
            rxDescriptorNumber := BitVec.ofNat 32 (Config.nRx - 1)
            rxConsumeIndex := 0 } }
        (State.finish 0) (fun _ => True) ∧
      (∀ i, i < Config.nRx →
        (Memory.readWord m (rxDescBase + 8 * i)).toNat = rxBuf i ∧
        (Memory.readWord m (rxDescBase + 8 * i + 4)).toNat = 0x80000000 + (Config.frameBufSize - 1) ∧
        Memory.readWord m (rxStatBase + 8 * i) = 0 ∧ Memory.readWord m (rxStatBase + 8 * i + 4) = 0) ∧
      (∀ a, a < rxDescBase ∨ txDescBase ≤ a → Memory.read m a = Memory.read s.mem a)) ∧
  (∀ i j, i < j → j < Config.nRx → rxBuf i + Config.frameBufSize ≤ rxBuf j) ∧ txBufBase = rxBuf Config.nRx

/-- R301: INIT_TX_RING, whole. -/
def Obligations.TxRingInitialised : Prop :=
  (∀ s : State, s.irq = .idle → s.powered = true →
    (s.regs.command.getLsbD 1 = true →
      exec .initTxRing s = .fault (.ringConfigWhileEnabled (s.site (some 0x100)))) ∧
    (s.regs.command.getLsbD 1 = false → exec .initTxRing s =
      .next { readLogged .command s.regs.command s with fgOp := [.seq txRingSeq, .txDone] })) ∧
  (∀ s : State, s.irq = .idle → s.powered = true → s.regs.command.getLsbD 1 = false →
    s.regs.txProduceIndex.toNat < Config.nTx → s.regs.txConsumeIndex.toNat < Config.nTx →
    (∀ a, txDescBase ≤ a → a < rxBufBase → hwOwned s a = false) →
    ∃ m : Memory,
      endsIn (aloneCommand .initTxRing (3 * Config.nTx + 4) s)
        { s with
          mem := m
          txRingInit := true
          regs := { s.regs with
            txDescriptor := BitVec.ofNat 32 txDescBase
            txStatus := BitVec.ofNat 32 txStatBase
            txDescriptorNumber := BitVec.ofNat 32 (Config.nTx - 1)
            txProduceIndex := 0 } }
        (State.finish 0) (fun _ => True) ∧
      (∀ i, i < Config.nTx →
        (Memory.readWord m (txDescBase + 8 * i)).toNat = txBuf i ∧
        Memory.readWord m (txDescBase + 8 * i + 4) = 0 ∧ Memory.readWord m (txStatBase + 4 * i) = 0) ∧
      (∀ a, a < txDescBase ∨ rxBufBase ≤ a → Memory.read m a = Memory.read s.mem a)) ∧
  (∀ i j, i < j → j < Config.nTx → txBuf i + Config.frameBufSize ≤ txBuf j) ∧ ringAreaEnd = txBuf Config.nTx

/-- R302, R303: the checks of WRITE_TX_PACKET and READ_RX_PACKET in their order, and the first step of each. -/
def Obligations.PacketCommandsStart : Prop :=
  ∀ (s : State) (buf len : Word) (p c : Nat),
    (s.txRingInit = false → exec (.writeTxPacket buf len) s = .fault (.ringNotInitialised (s.site none))) ∧
    (s.rxRingInit = false → exec (.readRxPacket buf len) s = .fault (.ringNotInitialised (s.site none))) ∧
    (s.txRingInit = true → len.toNat = 0 ∨ Config.frameBufSize < len.toNat →
      exec (.writeTxPacket buf len) s = .fault (.lengthOutOfRange (s.site none))) ∧
    (s.rxRingInit = true → Config.frameBufSize < len.toNat →
      exec (.readRxPacket buf len) s = .fault (.lengthOutOfRange (s.site none))) ∧
    (s.txRingInit = true → 0 < len.toNat → len.toNat ≤ Config.frameBufSize → buf.toNat % 4 ≠ 0 →
      exec (.writeTxPacket buf len) s = .fault (.misaligned (s.site (some buf.toNat)))) ∧
    (s.rxRingInit = true → len.toNat ≤ Config.frameBufSize → buf.toNat % 4 ≠ 0 →
      exec (.readRxPacket buf len) s = .fault (.misaligned (s.site (some buf.toNat)))) ∧
    (s.powered = true → s.txRingInit = true → 0 < len.toNat → len.toNat ≤ Config.frameBufSize → buf.toNat % 4 = 0 →
      p = s.regs.txProduceIndex.toNat % 65536 →
      ((p + 1) % Config.nTx = s.regs.txConsumeIndex.toNat →
        exec (.writeTxPacket buf len) s = .fault (.txRingFull (s.site (some 0x128)))) ∧
      ((p + 1) % Config.nTx ≠ s.regs.txConsumeIndex.toNat →
        exec (.writeTxPacket buf len) s = .next (putOp [.txPkt p buf.toNat len.toNat]
          (readLogged .txProduceIndex s.regs.txProduceIndex s)))) ∧
    (s.powered = true → s.rxRingInit = true → len.toNat ≤ Config.frameBufSize → buf.toNat % 4 = 0 →
      c = s.regs.rxConsumeIndex.toNat % 65536 →
      (s.regs.rxProduceIndex.toNat = c →
        exec (.readRxPacket buf len) s = .fault (.rxRingEmpty (s.site (some 0x118)))) ∧
      (s.regs.rxProduceIndex.toNat ≠ c →
        (buf = 0 → exec (.readRxPacket buf len) s =
          .next ((readLogged .rxConsumeIndex s.regs.rxConsumeIndex s).finish 0)) ∧
        (buf ≠ 0 → exec (.readRxPacket buf len) s = .next (putOp [.rxPkt c buf.toNat len.toNat]
          (readLogged .rxConsumeIndex s.regs.rxConsumeIndex s)))))

/-- R302: WRITE_TX_PACKET, whole, with no other agent stepping: the words of the caller's buffer, rounded up, stand in the buffer
the descriptor's PACKET word names, the CONTROL word is `(len - 1) | INT | LAST`, and every other byte is unchanged. -/
def Obligations.TxPacketCopied : Prop :=
  ∀ (s : State) (src len : Word) (p pkt n ctl : Nat),
    s.inProgram → s.powered = true → s.txRingInit = true →
    0 < len.toNat → len.toNat ≤ Config.frameBufSize → src.toNat % 4 = 0 →
    p = s.regs.txProduceIndex.toNat % 65536 → (p + 1) % Config.nTx ≠ s.regs.txConsumeIndex.toNat →
    pkt = (Memory.readWord s.mem (txDescBase + 8 * p)).toNat → n = (len.toNat + 3) / 4 →
    ctl = txDescBase + 8 * p + 4 →
    s.accessible (txDescBase + 8 * p) → s.accessible ctl →
    (∀ j, j < n → s.accessible (src.toNat + 4 * j) ∧ s.accessible (pkt + 4 * j)) →
    ∃ m : Memory,
      endsIn (aloneCommand (.writeTxPacket src len) (2 * n + 2) s) { s with mem := m } (State.finish 0) (fun _ => True) ∧
      (Memory.readWord m ctl).toNat = 0xC0000000 + (len.toNat - 1) ∧
      (∀ a, a < pkt ∨ pkt + 4 * n ≤ a → a < ctl ∨ ctl + 4 ≤ a → Memory.read m a = Memory.read s.mem a) ∧
      (src.toNat + 4 * n ≤ pkt ∨ pkt + 4 * n ≤ src.toNat → ∀ k, k < 4 * n →
        pkt + k < ctl ∨ ctl + 4 ≤ pkt + k → Memory.read m (pkt + k) = Memory.read s.mem (src.toNat + k))

/-- R303: READ_RX_PACKET into a buffer, whole, with no other agent stepping: the first `len` bytes are the slot's; the excess bytes
of the last word are draws, of which the statement says nothing; every other byte is unchanged. -/
def Obligations.RxPacketCopied : Prop :=
  ∀ (s : State) (dst len : Word) (c pkt n : Nat),
    s.inProgram → s.powered = true → s.rxRingInit = true → len.toNat ≤ Config.frameBufSize →
    dst ≠ 0 → dst.toNat % 4 = 0 →
    c = s.regs.rxConsumeIndex.toNat % 65536 → s.regs.rxProduceIndex.toNat ≠ c →
    pkt = (Memory.readWord s.mem (rxDescBase + 8 * c)).toNat → n = (len.toNat + 3) / 4 →
    s.accessible (rxDescBase + 8 * c) →
    (∀ j, j < n → s.accessible (pkt + 4 * j) ∧ s.accessible (dst.toNat + 4 * j)) →
    ∃ m : Memory,
      endsIn (aloneCommand (.readRxPacket dst len) (2 * n + 1) s) { s with mem := m } (State.finish 0) (fun _ => True) ∧
      (∀ a, a < dst.toNat ∨ dst.toNat + 4 * n ≤ a → Memory.read m a = Memory.read s.mem a) ∧
      (pkt + 4 * n ≤ dst.toNat ∨ dst.toNat + 4 * n ≤ pkt → ∀ k, k < len.toNat →
        Memory.read m (dst.toNat + k) = Memory.read s.mem (pkt + k))

/-- R304, R305: the index advances: the first step of each; the whole operation, with no other agent stepping, where the hardware
ring has the driver's size; and the fault of an advance past the other side while the datapath is enabled. -/
def Obligations.IndexAdvance : Prop :=
  ∀ s : State, s.powered = true →
    exec .advanceConsume s = .next (putOp [.seq [.write .rxConsumeIndex
      (BitVec.ofNat 32 ((s.regs.rxConsumeIndex.toNat % 65536 + 1) % Config.nRx))]]
      (readLogged .rxConsumeIndex s.regs.rxConsumeIndex s)) ∧
    exec .advanceProduce s = .next (putOp [.seq [.write .txProduceIndex
      (BitVec.ofNat 32 ((s.regs.txProduceIndex.toNat % 65536 + 1) % Config.nTx))]]
      (readLogged .txProduceIndex s.regs.txProduceIndex s)) ∧
    (∀ c p : Nat, s.inProgram → s.regs.rxDescriptorNumber.toNat % 65536 + 1 = Config.nRx →
      c = s.regs.rxConsumeIndex.toNat % 65536 → p = s.regs.rxProduceIndex.toNat % 65536 →
      c < Config.nRx → p < Config.nRx →
      (s.regs.command.getLsbD 0 = false ∨ c ≠ p →
        endsIn (aloneCommand .advanceConsume 1 s)
          { s with regs := { s.regs with rxConsumeIndex := BitVec.ofNat 32 ((c + 1) % Config.nRx) } }
          (State.finish 0) (fun _ => True)) ∧
      (s.regs.command.getLsbD 0 = true → c = p → ∃ site : FaultSite,
        aloneCommand .advanceConsume 1 s = .fault (.ownershipViolation site) ∧ site.addr = some 0x118)) ∧
    (∀ c p : Nat, s.inProgram → s.regs.txDescriptorNumber.toNat % 65536 + 1 = Config.nTx →
      c = s.regs.txConsumeIndex.toNat % 65536 → p = s.regs.txProduceIndex.toNat % 65536 →
      c < Config.nTx → p < Config.nTx →
      (s.regs.command.getLsbD 1 = false ∨ (p + 1) % Config.nTx ≠ c →
        endsIn (aloneCommand .advanceProduce 1 s)
          { s with regs := { s.regs with txProduceIndex := BitVec.ofNat 32 ((p + 1) % Config.nTx) } }
          (State.finish 0) (fun _ => True)) ∧
      (s.regs.command.getLsbD 1 = true → (p + 1) % Config.nTx = c → ∃ site : FaultSite,
        aloneCommand .advanceProduce 1 s = .fault (.ownershipViolation site) ∧ site.addr = some 0x128))

/-- R308: with its datapath disabled, N advances of an index from any value return it to that value, and k advances move it by k
modulo the ring's size. -/
def Obligations.AdvanceWrapsAround : Prop :=
  ∀ s : State, s.irq = .idle → s.powered = true →
    (∀ c : Nat, s.regs.command.getLsbD 0 = false → s.regs.rxDescriptorNumber.toNat % 65536 + 1 = Config.nRx →
      s.regs.rxConsumeIndex = BitVec.ofNat 32 c → c < Config.nRx →
      (∀ k : Nat, ∃ t : State, aloneTimes .advanceConsume 1 k s = .next t ∧
        t.regs = { s.regs with rxConsumeIndex := BitVec.ofNat 32 ((c + k) % Config.nRx) } ∧ t.pc = s.pc + k) ∧
      ∃ t : State, aloneTimes .advanceConsume 1 Config.nRx s = .next t ∧ t.regs = s.regs) ∧
    (∀ p : Nat, s.regs.command.getLsbD 1 = false → s.regs.txDescriptorNumber.toNat % 65536 + 1 = Config.nTx →
      s.regs.txProduceIndex = BitVec.ofNat 32 p → p < Config.nTx →
      (∀ k : Nat, ∃ t : State, aloneTimes .advanceProduce 1 k s = .next t ∧
        t.regs = { s.regs with txProduceIndex := BitVec.ofNat 32 ((p + k) % Config.nTx) } ∧ t.pc = s.pc + k) ∧
      ∃ t : State, aloneTimes .advanceProduce 1 Config.nTx s = .next t ∧ t.regs = s.regs)

/-- R306, R307, R308: the index checks: the first step of each, and the result, with no other agent stepping.  `%` is the
non-negative remainder. -/
def Obligations.IndexChecks : Prop :=
  ∀ s : State, s.powered = true →
    exec .checkReceiveIndex s = .next (putOp [.chkRx (s.regs.rxConsumeIndex.toNat % 65536)]
      (readLogged .rxConsumeIndex s.regs.rxConsumeIndex s)) ∧
    exec .checkTransmitIndex s = .next (putOp [.chkTx (s.regs.txConsumeIndex.toNat % 65536)]
      (readLogged .txConsumeIndex s.regs.txConsumeIndex s)) ∧
    (∀ c p : Int, s.inProgram → c = s.regs.rxConsumeIndex.toNat % 65536 → p = s.regs.rxProduceIndex.toNat % 65536 →
      endsIn (aloneCommand .checkReceiveIndex 1 s) s (State.finish (if c ≠ p then 1 else 0)) (fun _ => True)) ∧
    (∀ c p : Int, s.inProgram → c = s.regs.txConsumeIndex.toNat % 65536 → p = s.regs.txProduceIndex.toNat % 65536 →
      endsIn (aloneCommand .checkTransmitIndex 1 s) s
        (State.finish (if p = (c - 1) % (Config.nTx : Int) then 0 else 1)) (fun _ => True))

/-! ### PHY (spec/42_phy.md) -/

/-- R352 to R359: each PHY command starts at its first PHY access, with MADR addressing PHY 1; a mode outside R358's table
makes no access; while a cycle is in flight each faults, and so does one of a callback between the two writes of a PHY access of FG
(`phySplit`, R708: that the callback's command is the one that faults is the model's choice, log entry 28). -/
def Obligations.PhyCommandsStart : Prop :=
  ∀ (s : State) (reg value : Nat) (kind mode : Word), reg < 32 → value < 65536 →
    (s.powered = true → s.mii = .idle → s.phySplit = false →
      exec (.writePhy reg value) s = .next (accessStarted reg [.wpMwtd (BitVec.ofNat 16 value)] s) ∧
      exec (.readPhy reg) s = .next (accessStarted reg [.rpMcmd] s) ∧
      exec .detectPhy s = .next (accessStarted 2 [.rpMcmd, .detect1] s) ∧
      exec (.checkStatus kind) s = .next (accessStarted 1 [.rpMcmd, .checkStatus kind] s) ∧
      exec (.setMode 0) s = .next (accessStarted 0 [.wpMwtd 0x3000, .setMode] s) ∧
      exec (.setMode 1) s = .next (accessStarted 0 [.wpMwtd 0x0100, .setMode] s) ∧
      exec (.setMode 2) s = .next (accessStarted 0 [.wpMwtd 0x0000, .setMode] s) ∧
      exec (.setMode 3) s = .next (accessStarted 0 [.wpMwtd 0x2100, .setMode] s) ∧
      exec (.setMode 4) s = .next (accessStarted 0 [.wpMwtd 0x2000, .setMode] s) ∧
      exec .updateStatus s =
        .next (accessStarted 1 [.rpMcmd, .checkStatus 0, .updLink (Config.linkRetries - 1)] s)) ∧
    (4 < mode.toNat → exec (.setMode mode) s = .next (s.finish 0xFFFFFFFC)) ∧
    (s.powered = true → s.mii ≠ .idle ∨ s.phySplit = true →
      exec (.writePhy reg value) s = .fault (.miiBusyOverlap (s.site (some 0x028))) ∧
      exec (.readPhy reg) s = .fault (.miiBusyOverlap (s.site (some 0x028))) ∧
      exec .detectPhy s = .fault (.miiBusyOverlap (s.site (some 0x028))) ∧
      exec (.checkStatus kind) s = .fault (.miiBusyOverlap (s.site (some 0x028))) ∧
      (mode.toNat ≤ 4 → exec (.setMode mode) s = .fault (.miiBusyOverlap (s.site (some 0x028)))) ∧
      exec .updateStatus s = .fault (.miiBusyOverlap (s.site (some 0x028))))

/-- R353, R520: WRITE_PHY, whole: with prompt cycles it returns 0 after one completed PHY write; with no other agent stepping it
returns -1 after MII_RETRIES polls and the cycle stays in flight; in MII reset it faults. -/
def Obligations.PhyWriteCompletesOrTimesOut : Prop :=
  ∀ (s : State) (reg value : Nat), reg < 32 → value < 65536 → s.inProgram → s.powered = true → s.mii = .idle →
    s.phySplit = false →
    (s.regs.mcfg.getLsbD 15 = false →
      endsIn (promptCommand (.writePhy reg value) 2 s)
        { s with regs := { s.regs with madr := BitVec.ofNat 32 (256 + reg) } } (State.finish 0)
        (fun h => phyEvents h = .phyWrite 1 (BitVec.ofNat 5 reg) (BitVec.ofNat 16 value) :: phyEvents s.hist) ∧
      endsIn (aloneCommand (.writePhy reg value) (1 + Config.miiRetries) s)
        { s with
          regs := { s.regs with madr := BitVec.ofNat 32 (256 + reg) }
          mii := .write 1 (BitVec.ofNat 5 reg) (BitVec.ofNat 16 value) } (State.finish 0xFFFFFFFF)
        (fun h => phyEvents h = phyEvents s.hist)) ∧
    (s.regs.mcfg.getLsbD 15 = true → ∃ site : FaultSite,
      aloneCommand (.writePhy reg value) 1 s = .fault (.miiInReset site) ∧ site.addr = some 0x02C)

/-- R354, R521, R707: READ_PHY, whole: with prompt cycles it returns the oracle's answer and leaves MCMD 0; with no other agent
stepping it returns -1 and leaves MCMD.READ 1 and the cycle in flight; with MCMD.READ already 1 it starts no cycle and returns
the stale data. -/
def Obligations.PhyReadCompletesOrTimesOut : Prop :=
  ∀ (s : State) (reg : Nat) (v : Half), reg < 32 → s.inProgram → s.powered = true → s.mii = .idle →
    s.phySplit = false →
    v = Config.phyRead 1 (BitVec.ofNat 5 reg) (readHistory reg s) →
    (s.regs.mcfg.getLsbD 15 = false → s.regs.mcmd.getLsbD 0 = false →
      endsIn (promptCommand (.readPhy reg) 4 s)
        { s with regs := { s.regs with madr := BitVec.ofNat 32 (256 + reg), mrdd := v.setWidth 32, mcmd := 0 } }
        (State.finish (v.setWidth 32))
        (fun h => phyEvents h = .phyRead 1 (BitVec.ofNat 5 reg) v :: phyEvents s.hist) ∧
      endsIn (aloneCommand (.readPhy reg) (1 + Config.miiRetries) s)
        { s with
          regs := { s.regs with madr := BitVec.ofNat 32 (256 + reg), mcmd := 1 }
          mii := .read 1 (BitVec.ofNat 5 reg) } (State.finish 0xFFFFFFFF)
        (fun h => phyEvents h = phyEvents s.hist)) ∧
    (s.regs.mcmd.getLsbD 0 = true →
      endsIn (aloneCommand (.readPhy reg) 4 s)
        { s with regs := { s.regs with madr := BitVec.ofNat 32 (256 + reg), mcmd := 0 } }
        (State.finish (s.regs.mrdd &&& 0xFFFF)) (fun h => phyEvents h = phyEvents s.hist)) ∧
    (s.regs.mcfg.getLsbD 15 = true → s.regs.mcmd.getLsbD 0 = false → ∃ site : FaultSite,
      aloneCommand (.readPhy reg) 1 s = .fault (.miiInReset site) ∧ site.addr = some 0x024)

/-- R355, R356: the results of CHECK_STATUS and DETECT_PHY with prompt cycles: one read of the basic-status register, whatever the
kind; two reads of the identity registers. -/
def Obligations.StatusAndIdentityResults : Prop :=
  ∀ s : State, s.inProgram → s.powered = true → s.mii = .idle → s.regs.mcfg.getLsbD 15 = false →
    s.regs.mcmd.getLsbD 0 = false → s.phySplit = false →
    (∀ (kind : Word) (r : Half), r = Config.phyRead 1 1 (readHistory 1 s) →
      endsIn (promptCommand (.checkStatus kind) 4 s)
        { s with regs := { s.regs with madr := 0x101, mrdd := r.setWidth 32, mcmd := 0 } }
        (State.finish
          (if kind = 0 then (if r &&& 0x0004 ≠ 0 then 1 else 0)
           else if kind = 1 then (if r &&& Config.phySpeed100Mask ≠ 0 then 1 else 0)
           else if kind = 2 then (if r &&& Config.phyFullDupMask ≠ 0 then 1 else 0)
           else 0xFFFFFFFF))
        (fun h => phyEvents h = .phyRead 1 1 r :: phyEvents s.hist)) ∧
    ∃ (id1 id2 : Half) (h1 h2 : List Event),
      phyEvents h1 = phyEvents s.hist ∧ id1 = Config.phyRead 1 2 h1 ∧
      phyEvents h2 = .phyRead 1 2 id1 :: phyEvents s.hist ∧ id2 = Config.phyRead 1 3 h2 ∧
      endsIn (promptCommand .detectPhy 9 s)
        { s with regs := { s.regs with madr := 0x103, mrdd := id2.setWidth 32, mcmd := 0 } }
        (State.finish (if (id1 ++ id2) &&& 0xFFFFFFF0#32 ∈ Config.knownPhyIds then 0 else 0xFFFFFFFD))
        (fun h => phyEvents h = .phyRead 1 3 id2 :: .phyRead 1 2 id1 :: phyEvents s.hist)

/-- R362: what each PHY operation makes of a timed-out access, the last poll of which still reads BUSY.  R708: a PHY access
of an operation faults at its MADR write when a callback makes it between the MADR write and the MWTD or MCMD write of a PHY access of FG,
and else goes on to the write that starts its cycle; that the callback's command is the one that faults is the model's choice (log
entry 28). -/
def Obligations.PhyFailurePropagation : Prop :=
  (∀ (s : State) (kind d : Word) (left : Nat), s.powered = true → s.mii ≠ .idle →
    ∃ m : Word,
      (curOp s = [.rpPoll 0, .checkStatus kind] →
        continueOp s = .next ((readLogged .mind m s).finish 0xFFFFFFFF)) ∧
      (curOp s = [.rpPoll 0, .detect1] →
        continueOp s = .next (putOp [.rpMadr 3, .detect2 0xFFFFFFFF] (readLogged .mind m s))) ∧
      (curOp s = [.rpPoll 0, .detect2 d] →
        continueOp s = .next ((readLogged .mind m s).finish 0xFFFFFFFD)) ∧
      (curOp s = [.wpPoll 0, .setMode] →
        continueOp s = .next ((readLogged .mind m s).finish 0xFFFFFFFF)) ∧
      (curOp s = [.rpPoll 0, .checkStatus 0, .updLink left] →
        continueOp s = .next (putOp [.updDelay left] (readLogged .mind m s))) ∧
      (curOp s = [.rpPoll 0, .checkStatus 2, .updDup] →
        continueOp s = .next (putOp [.rpMadr 1, .checkStatus 1, .updSpeed 0xFFFFFFFF] (readLogged .mind m s))) ∧
      (curOp s = [.rpPoll 0, .checkStatus 1, .updSpeed d] →
        continueOp s = .next ((readLogged .mind m s).finish 0xFFFFFFFF))) ∧
  (∀ (s : State) (reg : MiiAddr) (value : Half) (a : Word) (fs : List OpFrame) (overlaps : Prop),
    s.powered = true → a = BitVec.ofNat 32 (256 + reg.toNat) →
    (overlaps ↔ s.irq ≠ .idle ∧ ∃ gs, (∃ w, s.fgOp = .wpMwtd w :: gs) ∨ s.fgOp = .rpMcmd :: gs) →
    (s.phySplit = true ↔ overlaps) ∧
    (overlaps → curOp s = .wpMadr reg value :: fs ∨ curOp s = .rpMadr reg :: fs →
      continueOp s = .fault (.miiBusyOverlap (s.site (some 0x028)))) ∧
    (¬overlaps → s.mii = .idle →
      (curOp s = .wpMadr reg value :: fs →
        continueOp s = .next (putOp (.wpMwtd value :: fs) (writeLogged .madr a { s.regs with madr := a } s))) ∧
      (curOp s = .rpMadr reg :: fs →
        continueOp s = .next (putOp (.rpMcmd :: fs) (writeLogged .madr a { s.regs with madr := a } s)))) ∧
    (s.mii = .idle → s.regs.mcfg.getLsbD 15 = false →
      (curOp s = .wpMwtd value :: fs → continueOp s = .next (putOp (.wpPoll (Config.miiRetries - 1) :: fs)
        { writeLogged .mwtd (value.setWidth 32) s.regs s with
          mii := .write (s.regs.madr.extractLsb' 8 5) (s.regs.madr.extractLsb' 0 5) value })) ∧
      (curOp s = .rpMcmd :: fs → continueOp s = .next (putOp (.rpPoll (Config.miiRetries - 1) :: fs)
        { writeLogged .mcmd 1 { s.regs with mcmd := 1 } s with
          mii := if s.regs.mcmd.getLsbD 0 then .idle
            else .read (s.regs.madr.extractLsb' 8 5) (s.regs.madr.extractLsb' 0 5) }))))

/-- R359: the link wait.  A poll that shows the link up goes on to the duplex read; any other is followed by the delay, and then
by another poll, or, after the last, by LINK_DOWN with no register touched. -/
def Obligations.LinkPollDecides : Prop :=
  ∀ (s : State) (left : Nat), s.powered = true →
    (curOp s = [.rpData, .checkStatus 0, .updLink left] → s.regs.mrdd.getLsbD 2 = true →
      continueOp s = .next (putOp [.rpMadr 1, .checkStatus 2, .updDup] (readLogged .mrdd s.regs.mrdd s))) ∧
    (curOp s = [.rpData, .checkStatus 0, .updLink left] → s.regs.mrdd.getLsbD 2 = false →
      continueOp s = .next (putOp [.updDelay left] (readLogged .mrdd s.regs.mrdd s))) ∧
    (curOp s = [.updDelay (left + 1)] →
      continueOp s = .next (putOp [.rpMadr 1, .checkStatus 0, .updLink left]
        { s with hist := .delayMs Config.linkDelayMs :: s.hist })) ∧
    (curOp s = [.updDelay 0] →
      continueOp s = .next ({ s with link := .down, hist := .delayMs Config.linkDelayMs :: s.hist }.finish 0xFFFFFFFB))

/-- R359, R361: the end of UPDATE_STATUS: from the last status read, the duplex being known, the MAC registers are set for the
duplex and the speed, the link is up and the result is 0; the duplex read having timed out, no register is touched. -/
def Obligations.StatusConfiguresMac : Prop :=
  (∀ s : State, s.powered = true → curOp s = [.rpData, .checkStatus 1, .updSpeed 0xFFFFFFFF] →
    continueOp s = .next ((readLogged .mrdd s.regs.mrdd s).finish 0xFFFFFFFF)) ∧
  ∀ (s : State) (full : Bool), s.inProgram → s.powered = true → s.regs.reservedZero →
    curOp s = [.rpData, .checkStatus 1, .updSpeed (if full then 1 else 0)] →
    endsIn (aloneRun 7 s)
      { s with
        link := .up
        regs := { s.regs with
          mac2 := if full then s.regs.mac2 ||| 0x0001 else s.regs.mac2 &&& ~~~0x0001#32
          command := if full then s.regs.command ||| 0x0400 else s.regs.command &&& ~~~0x0400#32
          ipgt := if full then 0x15 else 0x12
          supp := if s.regs.mrdd &&& Config.phySpeed100Mask.setWidth 32 ≠ 0 then 0x0100 else 0x0000 } }
      (State.finish 0) (fun _ => True)

/-! ### MAC engine (spec/43_mac.md) -/

/-- R404, R616: DEINIT, whole: on a powered block it masks and clears the interrupts and cuts the power, abandoning a cycle in
flight; on an unpowered block it touches nothing of the block.  `drv` and `link` are reset in both. -/
def Obligations.DeinitPowersOff : Prop :=
  ∀ s : State, s.irq = .idle →
    (s.powered = true →
      exec .deinit s = .next (putOp [.seq [.write .intClear 0x000030FF, .powerOff], .deinitDone]
        (writeLogged .intEnable 0 { s.regs with intEnable := 0 } s)) ∧
      endsIn (aloneCommand .deinit 2 s)
        { s with
          powered := false
          mii := .idle
          drv := .uninitialized
          link := .unknown
          regs := { s.regs with intEnable := 0, intStatus := s.regs.intStatus &&& ~~~0x000030FF#32 } }
        (State.finish 0) (fun _ => True)) ∧
    (s.powered = false →
      exec .deinit s = .next { s with drv := .uninitialized, link := .unknown, ret := 0, pc := s.pc + 1, fgOp := [] })

/-- R405, R406: SET_HASH_FILTER: its first step, and, whole, with no other agent stepping: the one table bit, Command bit 7 and, if
the parameter says so, the two hash-enable bits; nothing else. -/
def Obligations.HashFilterBit : Prop :=
  ∀ (s : State) (addr : List Byte) (enable i : Nat), addr.length = 6 → enable < 2 → s.powered = true →
    i = ((crc32 addr).extractLsb' 23 6).toNat →
    (∃ (r : Reg) (v w : Word) (ms : List Micro),
      (r = if i < 32 then .hashFilterL else .hashFilterH) ∧
      exec (.setHashFilter addr enable) s = .next (putOp [.seq (.write r w :: ms)] (readLogged r v s)) ∧
      w = (if enable = 1 then v ||| (1#32 <<< (i % 32)) else v &&& ~~~(1#32 <<< (i % 32)))) ∧
    (s.inProgram → s.regs.reservedZero →
      ∃ lo hi : Word,
        endsIn (aloneCommand (.setHashFilter addr enable) (if Config.hashSetsRfc then 5 else 3) s)
          { s with regs := { s.regs with
            hashFilterL := lo
            hashFilterH := hi
            command := s.regs.command &&& ~~~0x00000080#32
            rxFilterCtrl := if Config.hashSetsRfc then s.regs.rxFilterCtrl ||| 0x18 else s.regs.rxFilterCtrl } }
          (State.finish 0) (fun _ => True) ∧
        (∀ j, j < 32 → lo.getLsbD j = if j = i then decide (enable = 1) else s.regs.hashFilterL.getLsbD j) ∧
        (∀ j, j < 32 → hi.getLsbD j = if j + 32 = i then decide (enable = 1) else s.regs.hashFilterH.getLsbD j))

/-- R402, R403: the divider selection for every core clock, with its examples; and SET_STATION_ADDRESS inside INIT: after its
three writes the station address reads back as the address given, octet for octet, under either order. -/
def Obligations.ClockSelectAndStationAddress : Prop :=
  (∀ hz sel : Nat, sel = clockSelect hz → 1 ≤ sel ∧ sel ≤ 8 ∧
    (∀ k (h : k < 7), k + 1 = sel → hz / 2500000 ≤ [4, 6, 8, 10, 14, 20, 28][k]) ∧
    (∀ k (h : k < 7), k + 1 < sel → [4, 6, 8, 10, 14, 20, 28][k] < hz / 2500000)) ∧
  (∀ (s : State) (mac : List Byte) (fs : List OpFrame), mac.length = 6 → s.irq = .idle → s.powered = true →
    s.fgOp = .seq (stationSeq mac) :: .initRing :: .initRx :: fs →
    ∃ sa0 sa1 sa2 : Word,
      endsIn (aloneRun 3 s)
        { s with drv := .ringInit, regs := { s.regs with sa0 := sa0, sa1 := sa1, sa2 := sa2 }, fgOp := .initRx :: fs }
        id (fun _ => True) ∧
      stationOctets { s.regs with sa0 := sa0, sa1 := sa1, sa2 := sa2 } = mac)

/-- R400: INIT starts by switching the block on; from there, with no other agent stepping, fifteen steps leave the registers as
the first part of its rule says, ready for the PHY reset. -/
def Obligations.InitProgramsTheMac : Prop :=
  ∀ (s : State) (mac : List Byte) (mode : Word), mac.length = 6 → s.irq = .idle →
    (s.drv ≠ .uninitialized → exec (.init mac mode) s = .fault (.initWithoutDeinit (s.site none))) ∧
    (s.drv = .uninitialized →
      exec (.init mac mode) s = .next { s with
        powered := true
        drv := .resetting
        fgOp := [.seq initHead, .wpMadr 0 0x8000, .initWritten mac mode] } ∧
      (s.mii = .idle →
        endsIn (aloneCommand (.init mac mode) 15 s)
          { s with
            powered := true
            drv := .resetting
            rxMidFrame := false
            rxRemain := []
            fgOp := [.wpMadr 0 0x8000, .initWritten mac mode]
            regs := { Regs.reset with
              mac1 := 0x0002, mac2 := 0x0030, maxf := 0x0600, clrt := 0x370F, ipgr := 0x0C12, supp := 0x0000
              mcfg := BitVec.ofNat 32 (4 * clockSelect Config.coreClkHz)
              command := 0x0240
              ipgt := s.regs.ipgt, mcmd := s.regs.mcmd, madr := s.regs.madr, mrdd := s.regs.mrdd
              sa0 := s.regs.sa0, sa1 := s.regs.sa1, sa2 := s.regs.sa2 } }
          id (fun _ => True)))

/-- R400: the branches of INIT and its end.  Its PHY reset write ends it with PHY_RESET_TIMEOUT or leads to the BMCR polls; a poll
that timed out or shows RESET or POWER_DOWN leads to another, or, after the last, to PHY_RESET_TIMEOUT, any other to the PHY
detection; an identity that is not known ends it with UNKNOWN_PHY, a known one leads to SET_MODE, or, for a mode outside R358's
table, ends it with UNSUPPORTED_MODE (one step in the model, log entry 15); a SET_MODE that timed out ends it with TIMEOUT, any other
leads to the station address, carrying LINK_DOWN on.  An abort writes no register and leaves the block on.  From the last writes on,
with no other agent stepping, seven steps set the filter, the interrupts, the two datapaths and the result, LINK_DOWN or OK. -/
def Obligations.InitBranchesAndResult : Prop :=
  (∀ (s : State) (mac : List Byte) (mode id1 d : Word) (k left : Nat), s.powered = true →
    ∃ m : Word,
      (s.mii = .idle →
        (curOp s = [.wpPoll k, .initWritten mac mode] → continueOp s =
          .next (putOp [.rpMadr 0, .initPoll mac mode (Config.phyResetRetries - 1)] (readLogged .mind m s))) ∧
        (curOp s = [.wpPoll k, .setMode, .initMode mac] → continueOp s =
          .next (putOp [.rpMadr 1, .checkStatus 0, .updLink (Config.linkRetries - 1), .initMode mac]
            (readLogged .mind m s)))) ∧
      (s.mii ≠ .idle →
        (curOp s = [.wpPoll 0, .initWritten mac mode] → continueOp s =
          .next ({ readLogged .mind m s with drv := .phyResetTimeout }.finish 0xFFFFFFFE)) ∧
        (curOp s = [.rpPoll 0, .initPoll mac mode (left + 1)] → continueOp s =
          .next (putOp [.rpMadr 0, .initPoll mac mode left] (readLogged .mind m s))) ∧
        (curOp s = [.rpPoll 0, .initPoll mac mode 0] → continueOp s =
          .next ({ readLogged .mind m s with drv := .phyResetTimeout }.finish 0xFFFFFFFE)) ∧
        (curOp s = [.rpPoll 0, .detect1, .initDetected mac mode] → continueOp s =
          .next (putOp [.rpMadr 3, .detect2 0xFFFFFFFF, .initDetected mac mode] (readLogged .mind m s))) ∧
        (curOp s = [.rpPoll 0, .detect2 id1, .initDetected mac mode] → continueOp s =
          .next ({ readLogged .mind m s with drv := .phyDetectFailed }.finish 0xFFFFFFFD)) ∧
        (curOp s = [.wpPoll 0, .setMode, .initMode mac] → continueOp s =
          .next ({ readLogged .mind m s with drv := .phyConfigFailed }.finish 0xFFFFFFFF)) ∧
        (curOp s = [.rpPoll 0, .checkStatus 1, .updSpeed d, .initMode mac] → continueOp s =
          .next ({ readLogged .mind m s with drv := .phyConfigFailed }.finish 0xFFFFFFFF)))) ∧
  (∀ (s read : State) (mac : List Byte) (mode id1 : Word) (left : Nat) (known : Prop), s.powered = true →
    read = readLogged .mrdd s.regs.mrdd s →
    (known ↔ id1 ≠ 0xFFFFFFFF ∧ ((id1 <<< 16) ||| (s.regs.mrdd &&& 0x0000FFFF)) &&& 0xFFFFFFF0 ∈ Config.knownPhyIds) →
    (s.regs.mrdd &&& 0x00008800 = 0 → curOp s = [.rpData, .initPoll mac mode left] → continueOp s =
      .next (putOp [.rpMadr 2, .detect1, .initDetected mac mode] { read with drv := .phyDetect })) ∧
    (s.regs.mrdd &&& 0x00008800 ≠ 0 →
      (curOp s = [.rpData, .initPoll mac mode (left + 1)] →
        continueOp s = .next (putOp [.rpMadr 0, .initPoll mac mode left] read)) ∧
      (curOp s = [.rpData, .initPoll mac mode 0] →
        continueOp s = .next ({ read with drv := .phyResetTimeout }.finish 0xFFFFFFFE))) ∧
    (curOp s = [.rpData, .detect1, .initDetected mac mode] → continueOp s =
      .next (putOp [.rpMadr 3, .detect2 (s.regs.mrdd &&& 0x0000FFFF), .initDetected mac mode] read)) ∧
    (curOp s = [.rpData, .detect2 id1, .initDetected mac mode] →
      (¬known → continueOp s = .next ({ read with drv := .phyDetectFailed }.finish 0xFFFFFFFD)) ∧
      (known → ∀ bmcr : Half, [0x3000#16, 0x0100#16, 0x0000#16, 0x2100#16, 0x2000#16][mode.toNat]? = some bmcr →
        continueOp s = .next (putOp [.wpMadr 0 bmcr, .setMode, .initMode mac] { read with drv := .phyConfiguring })) ∧
      (known → 4 < mode.toNat →
        continueOp s = .next ({ read with drv := .phyConfigFailed }.finish 0xFFFFFFFC))) ∧
    (curOp s = [.rpData, .checkStatus 1, .updSpeed 0xFFFFFFFF, .initMode mac] →
      continueOp s = .next ({ read with drv := .phyConfigFailed }.finish 0xFFFFFFFF))) ∧
  (∀ (s : State) (mac : List Byte) (rest : Bool → List OpFrame),
    (∀ linkDown, rest linkDown =
      [.seq (stationSeq mac), .initRing, .initRx, .initTx, .seq initTail, .initEnd linkDown]) →
    (curOp s = [.updDelay 0, .initMode mac] → continueOp s =
      .next (putOp (rest true) { s with link := .down, hist := .delayMs Config.linkDelayMs :: s.hist })) ∧
    (∀ v : Word, s.powered = true → curOp s = [.seq [.write .supp v], .linkUp, .initMode mac] → continueOp s =
      .next (putOp (rest false) { writeLogged .supp v { s.regs with supp := v &&& 0x00000900 } s with link := .up }))) ∧
  (∀ (s : State) (linkDown : Bool), s.irq = .idle → s.powered = true → s.regs.reservedZero →
    s.fgOp = [.seq initTail, .initEnd linkDown] →
    endsIn (aloneRun 7 s)
      { s with
        drv := .enabled
        ret := if linkDown then 0xFFFFFFFB else 0
        pc := s.pc + 1
        fgOp := []
        regs := { s.regs with
          rxFilterCtrl := 0x0026
          intEnable := 0x0088
          intStatus := 0
          command := s.regs.command ||| 0x0003
          mac1 := s.regs.mac1 ||| 0x0001 } }
      id (fun _ => True))

/-- R401: every step changes `drv` only by a row of R401's table, but that INIT's unsupported mode takes two rows, PHY-Detect to
PHY-Configuring to PHY-Config-Failed, in one step of the model (log entry 15).  The last row, to Uninitialized, is the end of a DEINIT:
of the operation of a powered block, or of the one step of an unpowered one.  The stage of an INIT in progress, and that no callback
body runs one, is an invariant. -/
def Obligations.MacEngineTransitions : Prop :=
  ∀ s t : State, s.stageOk → step s = .next t →
    t.stageOk ∧
    (t.drv = s.drv ∨ (s.drv, t.drv) ∈ drvTransitions ∨
      (s.drv = .phyDetect ∧ t.drv = .phyConfigFailed ∧ s.turn = .fg ∧ s.irq = .idle ∧ t.ret = 0xFFFFFFFC ∧ t.fgOp = []) ∨
      (t.drv = .uninitialized ∧ t.link = .unknown ∧ s.turn = .fg ∧ s.irq = .idle ∧ t.ret = 0 ∧ t.fgOp = [] ∧
        (s.fgOp.getLast? = some .deinitDone ∨
          s.fgOp = [] ∧ s.powered = false ∧ ∃ l, s.prog[s.pc]? = some l ∧ decode l = some .deinit)))

/-! ### Dispatcher (spec/44_dispatch.md, spec/60_exceptions.md) -/

/-- R450, R451, R69: SETUP_CALLBACK writes exactly one slot, that of the first matching ordinal, or none. -/
def Obligations.CallbackRegistration : Prop :=
  ∀ (s : State) (mask : Word) (fn : Option CallbackId) (bits : List Nat), s.irq = .idle →
    bits = [0, 1, 2, 3, 4, 5, 6, 7, 12, 13] →
    (∀ (n : Fin 10) (b : Nat), bits[n.val]? = some b → mask.getLsbD b = true →
      (∀ (k : Nat) (c : Nat), k < n.val → bits[k]? = some c → mask.getLsbD c = false) →
      ∃ cb : Vector (Option CallbackId) 10,
        exec (.setupCallback mask fn) s = .next { s with cb := cb, ret := 0, pc := s.pc + 1, fgOp := [] } ∧
        ∀ k : Fin 10, cb[k] = if k = n then fn else s.cb[k]) ∧
    ((∀ b ∈ bits, mask.getLsbD b = false) →
      exec (.setupCallback mask fn) s = .next { s with ret := 0, pc := s.pc + 1, fgOp := [] })

/-- R163, R452, R456, R611: inside DISPATCH and its callback bodies the six foreground commands fault, and so does DISPATCH in FG
and in a body.  That they do so in every state, so INIT with `drv` not Uninitialized too, where R400 has a fault of its own, is the
model's choice: the context comes before every other check (log entry 27). -/
def Obligations.ForegroundOnlyCommands : Prop :=
  ∀ (s : State) (mac : List Byte) (mode mask : Word) (fn : Option CallbackId),
    (s.irq ≠ .idle → mac.length = 6 →
      exec (.init mac mode) s = .fault (.forbiddenInContext (s.site none)) ∧
      exec .deinit s = .fault (.forbiddenInContext (s.site none)) ∧
      exec .initRxRing s = .fault (.forbiddenInContext (s.site none)) ∧
      exec .initTxRing s = .fault (.forbiddenInContext (s.site none)) ∧
      exec (.setupCallback mask fn) s = .fault (.forbiddenInContext (s.site none))) ∧
    ((s.irq = .idle ∨ ∃ st n id pc op, s.irq = .running st (.body n id pc op)) →
      exec .dispatch s = .fault (.forbiddenInContext (s.site none)))

/-- R453, R455, R457: the steps of DISPATCH: the two reads, the clear of exactly the bits of the batch, the clear of the wake-on-LAN
status, and the return.  That `irq` keeps the last batch until the IntEnable read is the
model's choice (log entry 19). -/
def Obligations.DispatchSteps : Prop :=
  ∀ (s : State) (st v e : Word), s.powered = true → e = s.regs.intEnable →
    (s.irq = .running st .start →
      exec .dispatch s = .next { readLogged .intStatus s.regs.intStatus s with
        irq := .running st (.readEnable s.regs.intStatus) } ∧
      irqStep s = exec .dispatch s) ∧
    (s.irq = .running st (.readEnable v) →
      (v &&& e = 0 → irqStep s = .next { readLogged .intEnable e s with irq := .running (v &&& e) .done }) ∧
      (v &&& e ≠ 0 → irqStep s = .next { readLogged .intEnable e s with irq := .running (v &&& e) .clear })) ∧
    (s.irq = .running st .clear →
      irqStep s = .next (scan [0, 1, 2, 3, 4, 5, 6, 7, 8] st (writeLogged .intClear st
        { s.regs with intStatus := s.regs.intStatus &&& ~~~(st &&& 0x000030FF) } s))) ∧
    (s.irq = .running st .wolClear →
      irqStep s = .next (enterWake st (writeLogged .rxFilterWoLClear 0x000001BF
        { s.regs with rxFilterWoLStatus := s.regs.rxFilterWoLStatus &&& ~~~0x000001BF#32 } s))) ∧
    (s.irq = .running st .done → irqStep s = .next { s with irq := .idle })

/-- R453, R456, R609: which callback runs next.  Among the ordinals still to be looked at, 0 to 8 after the clear and those above
`n` after the body of ordinal `n`, the lowest that is in the batch and registered; its invocation is recorded; a body without a
line ends at once.  Then comes the wake clear, if its bit is in the batch, then ordinal 9, then the next pass.  Two points are the
model's choice: a callback id for which no body is given has the empty body, so its invocation is recorded and does nothing more
(log entry 6, unsafe here: the clauses for an empty `bodyOf s id` speak of that case too); and at the head of the next pass `irq`
keeps the batch of the last one (log entry 19). -/
def Obligations.DispatchOrder : Prop :=
  ∀ (s : State) (st : Word) (after : Option (Fin 10)) (go : State → State),
    (after = none ∧ go = scan [0, 1, 2, 3, 4, 5, 6, 7, 8] st ∨ ∃ n : Fin 10, after = some n ∧ n ≠ 9 ∧ go = leaveBody st n) →
    (∀ (k : Fin 10) (id : CallbackId), (∀ n, after = some n → n < k) → k ≠ 9 →
      st.getLsbD (bitOf k) = true → s.cb[k] = some id →
      (∀ j : Fin 10, (∀ n, after = some n → n < j) → j < k → st.getLsbD (bitOf j) = true → s.cb[j] = none) →
      (bodyOf s id ≠ [] →
        go s = { s with hist := .invoke k id :: s.hist, irq := .running st (.body k id 0 []) }) ∧
      (bodyOf s id = [] → go s = leaveBody st k { s with hist := .invoke k id :: s.hist })) ∧
    ((∀ k : Fin 10, (∀ n, after = some n → n < k) → k ≠ 9 → st.getLsbD (bitOf k) = true → s.cb[k] = none) →
      (st.getLsbD 13 = true → go s = { s with irq := .running st .wolClear }) ∧
      (st.getLsbD 13 = false → go s = { s with irq := .running st .start })) ∧
    leaveBody st 9 s = { s with irq := .running st .start } ∧
    (s.cb[(9 : Fin 10)] = none → enterWake st s = { s with irq := .running st .start }) ∧
    (∀ id, s.cb[(9 : Fin 10)] = some id →
      (bodyOf s id ≠ [] →
        enterWake st s = { s with hist := .invoke 9 id :: s.hist, irq := .running st (.body 9 id 0 []) }) ∧
      (bodyOf s id = [] → enterWake st s = { s with hist := .invoke 9 id :: s.hist, irq := .running st .start }))

/-- R459: the source's dispatch property, with one entry step before it: the status bits of ordinals 0, 3 and 9, callbacks at 0 and
9 that are one HALT each: ten IRQ steps run both callbacks once each, the wake clear before the second, and return. -/
def Obligations.DispatchServesBothCallbacks : Prop :=
  ∀ (s : State) (a b : CallbackId) (e : Word), s.irq = .idle → s.powered = true →
    s.regs.intStatus = 0x00002009 → e = s.regs.intEnable → e &&& 0x00002009 = 0x00002009 →
    (∀ k : Fin 10, s.cb[k] = if k = 0 then some a else if k = 9 then some b else none) →
    bodyOf s a = [⟨0x40000063, []⟩] → bodyOf s b = [⟨0x40000063, []⟩] →
    ∃ (tn : Turn) (n : Nat), irqRun 10 s = .next { s with
      turn := tn
      tick := n
      regs := { s.regs with
        intStatus := 0, rxFilterWoLStatus := s.regs.rxFilterWoLStatus &&& ~~~0x000001BF#32 }
      hist := [Event.bus .irq 0xFE4 .read e, Event.bus .irq 0xFE0 .read 0, Event.invoke 9 b,
        Event.bus .irq 0x208 .write 0x000001BF, Event.invoke 0 a, Event.bus .irq 0xFE8 .write 0x00002009,
        Event.bus .irq 0xFE4 .read e, Event.bus .irq 0xFE0 .read 0x00002009] ++ s.hist }

/-- R604 to R607: the interrupt line, entry, what entry saves, and return.  While IRQ runs FG takes no step and its state stays;
the context is left only by the interrupt return.  That the turn of an agent without a step leaves the state
as it is is the model's choice (log entry 3). -/
def Obligations.InterruptEntryAndReturn : Prop :=
  (∀ s : State, s.irq = .idle →
    (s.powered = true → s.regs.intStatus &&& s.regs.intEnable &&& 0x000030FF ≠ 0 →
      irqStep s = .next { s with irq := .running 0 .start }) ∧
    (s.powered = false ∨ s.regs.intStatus &&& s.regs.intEnable &&& 0x000030FF = 0 → irqStep s = .next s)) ∧
  (∀ s : State, s.irq ≠ .idle → fgStep s = .next s) ∧
  (∀ s t : State, irqStep s = .next t →
    t.pc = s.pc ∧ t.ret = s.ret ∧ t.fgOp = s.fgOp ∧ t.halted = s.halted ∧
    (s.irq ≠ .idle → t.irq = .idle → ∃ st, s.irq = .running st .done ∧ t = { s with irq := .idle })) ∧
  (∀ s t : State, fgStep s = .next t → t.irq = s.irq ∧ t.irqRet = s.irqRet)

/-! ### Hardware agents (spec/46_agents.md) -/

/-- R500, R501, R503, R505: a new frame on an enabled receiver with a free descriptor: the filter's formula decides whether it is
discarded, with nothing but the history changed, or goes on to the deposit, which is stuck where an address lies outside DMA_REGION and
else takes the frame, with FAIL_FILTER set when only PASS_RX_FILTER took it.  The formula is R505's as
written, its broadcast draw included: a perfect match of a broadcast station address counts, where R506 has a rejection or a draw (the
model's inference, log entry 24).  That a stuck RXDMA leaves the state as it is is the model's choice (log entry 3). -/
def Obligations.ReceiveFilter : Prop :=
  ∀ (o : RxOffer) (s : State) (uc bc mc hit perfect : Prop) (accept : Bool) (p NR d st n : Nat) (buf ctl : Word),
    s.powered = true → s.regs.command.getLsbD 0 = true → s.regs.mac1.getLsbD 0 = true →
    s.regs.mac1 &&& 0x0000CC00 = 0 →
    p = s.regs.rxProduceIndex.toNat % 65536 → NR = s.regs.rxDescriptorNumber.toNat % 65536 + 1 →
    (p + 1) % NR ≠ s.regs.rxConsumeIndex.toNat % 65536 →
    s.rxMidFrame = false →
    d = s.regs.rxDescriptor.toNat + 8 * p → st = s.regs.rxStatus.toNat + 8 * p →
    buf = Memory.readWord s.mem d → ctl = Memory.readWord s.mem (d + 4) →
    n = min ((ctl.extractLsb' 0 11).toNat + 1) (6 + o.rest.length) →
    (bc ↔ ∀ k (h : k < 6), o.da[k] = 0xFF#8) → (uc ↔ o.da[0].getLsbD 0 = false) →
    (mc ↔ o.da[0].getLsbD 0 = true ∧ ¬bc) →
    (∀ i, i = ((crc32 o.da.toList).extractLsb' 23 6).toNat →
      (hit ↔ if i < 32 then s.regs.hashFilterL.getLsbD i = true else s.regs.hashFilterH.getLsbD (i - 32) = true)) →
    (perfect ↔ o.da.toList = stationOctets s.regs) →
    (accept = true ↔
      (uc ∧ s.regs.rxFilterCtrl.getLsbD 0 = true) ∨ (bc ∧ s.regs.rxFilterCtrl.getLsbD 1 = true) ∨
      (mc ∧ s.regs.rxFilterCtrl.getLsbD 2 = true) ∨ (uc ∧ s.regs.rxFilterCtrl.getLsbD 3 = true ∧ hit) ∨
      (mc ∧ s.regs.rxFilterCtrl.getLsbD 4 = true ∧ hit) ∨ 
      (perfect ∧ s.regs.rxFilterCtrl.getLsbD 5 = true) ∨
      (bc ∧ s.regs.rxFilterCtrl.getLsbD 4 = true ∧ s.regs.rxFilterCtrl.getLsbD 1 = false ∧ o.bcastHash = true)) →
    (accept = false → s.regs.command.getLsbD 7 = false →
      rxdmaStep o s = { s with hist := .rxFrame (o.da.toList ++ o.rest) o.err .discarded :: s.hist }) ∧
    (accept = true ∨ s.regs.command.getLsbD 7 = true →
      ((inDmaRegion d 8 && inDmaRegion st 8 && inDmaRegion buf.toNat n) = false → rxdmaStep o s = s) ∧
      ((inDmaRegion d 8 && inDmaRegion st 8 && inDmaRegion buf.toNat n) = true →
        (rxdmaStep o s).rxFail = !accept ∧ (rxdmaStep o s).rxDa = o.da ∧ (rxdmaStep o s).rxErr = o.err ∧
        (rxdmaStep o s).regs.rxProduceIndex.toNat = (p + 1) % NR))

/-- R500, R502, R503, R504: a step of RXDMA.  Held, it has none; at a full ring the data is lost; where an address lies outside
DMA_REGION it has none; else it deposits one fragment: the bytes, the info word, the index, the interrupt bits.  The model looks at the
full ring before the filter, so a new frame the filter would reject is lost there too, and not discarded (log entry 13); what the
filter accepts is `filterAccepts` (log entry 24).  That a held or stuck RXDMA leaves the state as it is, and that the rest of a frame lost
at a full ring is an event of its own, is the model's choice and inference (log entries 3 and 16). -/
def Obligations.RxDepositOrLoss : Prop :=
  ∀ (o : RxOffer) (s : State) (F : List Byte) (err : BitVec 7) (da : Vector Byte 6) (fail on : Bool)
    (p c NR d st n : Nat) (buf ctl : Word),
    p = s.regs.rxProduceIndex.toNat % 65536 → c = s.regs.rxConsumeIndex.toNat % 65536 →
    NR = s.regs.rxDescriptorNumber.toNat % 65536 + 1 →
    F = (if s.rxMidFrame then s.rxRemain else o.da.toList ++ o.rest) →
    err = (if s.rxMidFrame then s.rxErr else o.err) → da = (if s.rxMidFrame then s.rxDa else o.da) →
    fail = (if s.rxMidFrame then s.rxFail else !filterAccepts s.regs o.da o.bcastHash) →
    (on = true ↔ s.powered = true ∧ s.regs.command.getLsbD 0 = true ∧ s.regs.mac1.getLsbD 0 = true ∧
      s.regs.mac1 &&& 0x0000CC00 = 0) →
    d = s.regs.rxDescriptor.toNat + 8 * p → st = s.regs.rxStatus.toNat + 8 * p →
    buf = Memory.readWord s.mem d → ctl = Memory.readWord s.mem (d + 4) →
    n = min ((ctl.extractLsb' 0 11).toNat + 1) F.length →
    (on = false → rxdmaStep o s = s) ∧
    (on = true → (p + 1) % NR = c → rxdmaStep o s = { s with
      regs := { s.regs with intStatus := s.regs.intStatus ||| o.overflow.setWidth 32 }
      rxMidFrame := false
      rxRemain := []
      hist := .rxFrame F err .lost :: s.hist }) ∧
    (on = true → (p + 1) % NR ≠ c → F ≠ [] →
      s.rxMidFrame = true ∨ fail = false ∨ s.regs.command.getLsbD 7 = true →
      ((inDmaRegion d 8 && inDmaRegion st 8 && inDmaRegion buf.toNat n) = false → rxdmaStep o s = s) ∧
      ((inDmaRegion d 8 && inDmaRegion st 8 && inDmaRegion buf.toNat n) = true →
        ∃ (m : Memory) (h : List Event) (ints info : Word),
          rxdmaStep o s = { s with
            mem := m
            hist := h
            regs := { s.regs with rxProduceIndex := BitVec.ofNat 32 ((p + 1) % NR), intStatus := ints }
            rxDa := da
            rxErr := err
            rxFail := fail
            rxRemain := F.drop n
            rxMidFrame := decide (n < F.length) } ∧
          (∀ b, ints.getLsbD b = (s.regs.intStatus.getLsbD b || decide (b = 3 ∧ ctl.getLsbD 31 = true ∨
            b = 1 ∧ n = F.length ∧ info.getLsbD 31 = true ∨ b = 2 ∧ (p + 2) % NR = c))) ∧
          (info.extractLsb' 0 11).toNat = n - 1 ∧ info.extractLsb' 11 7 = 0 ∧
          info.getLsbD 30 = decide (n = F.length) ∧ info.getLsbD 31 = decide (info.extractLsb' 23 7 ≠ 0) ∧
          (n = F.length → info.extractLsb' 23 7 = err ∧ info.getLsbD 22 = isBroadcast da ∧
            info.getLsbD 21 = (da[0].getLsbD 0 && !isBroadcast da) ∧ info.getLsbD 20 = fail) ∧
          Memory.readWord m st = info ∧
          (buf.toNat + n ≤ st ∨ st + 8 ≤ buf.toNat →
            ∀ k (hk : k < F.length), k < n → Memory.read m (buf.toNat + k) = F[k]) ∧
          (∀ a, a < buf.toNat ∨ buf.toNat + n ≤ a → a < st ∨ st + 8 ≤ a →
            Memory.read m a = Memory.read s.mem a)))

/-- R510, R511, R512: a step of TXDMA.  Held, or at an empty ring, it has none; where an address lies outside DMA_REGION it has
none; else it sends the descriptor at the consume index.  That a held, empty or stuck TXDMA leaves the state as it is is the model's
choice (log entry 3). -/
def Obligations.TxSend : Prop :=
  ∀ (draw : BitVec 10) (s : State) (on : Bool) (p c NT d sa n : Nat) (buf ctl : Word),
    p = s.regs.txProduceIndex.toNat % 65536 → c = s.regs.txConsumeIndex.toNat % 65536 →
    NT = s.regs.txDescriptorNumber.toNat % 65536 + 1 →
    (on = true ↔ s.powered = true ∧ s.regs.command.getLsbD 1 = true ∧ s.regs.mac1 &&& 0x0000C300 = 0 ∧ c ≠ p) →
    d = s.regs.txDescriptor.toNat + 8 * c → sa = s.regs.txStatus.toNat + 4 * c →
    buf = Memory.readWord s.mem d → ctl = Memory.readWord s.mem (d + 4) → n = (ctl.extractLsb' 0 11).toNat + 1 →
    (on = false → txdmaStep draw s = s) ∧
    (on = true → (inDmaRegion d 8 && inDmaRegion sa 4 && inDmaRegion buf.toNat n) = false → txdmaStep draw s = s) ∧
    (on = true → (inDmaRegion d 8 && inDmaRegion sa 4 && inDmaRegion buf.toNat n) = true →
      ∃ (m : Memory) (h1 h2 : List Event) (ints st : Word) (bytes : List Byte),
        txdmaStep draw s = { s with
          mem := m
          hist := h1 ++ .txFrame bytes (ctl.getLsbD 30) :: h2 ++ s.hist
          regs := { s.regs with txConsumeIndex := BitVec.ofNat 32 ((c + 1) % NT), intStatus := ints } } ∧
        (∀ b l, Event.txFrame b l ∉ h1 ∧ Event.txFrame b l ∉ h2) ∧
        bytes.length = n ∧ (∀ k (hk : k < bytes.length), bytes[k] = Memory.read s.mem (buf.toNat + k)) ∧
        st.extractLsb' 0 21 = 0 ∧ st.extractLsb' 21 10 = draw ∧ st.getLsbD 31 = decide (st.extractLsb' 26 5 ≠ 0) ∧
        (∀ b, ints.getLsbD b = (s.regs.intStatus.getLsbD b || decide (b = 7 ∧ ctl.getLsbD 31 = true ∨
          b = 5 ∧ st.getLsbD 31 = true ∨ b = 4 ∧ st.getLsbD 29 = true ∨ b = 6 ∧ (c + 1) % NT = p))) ∧
        Memory.readWord m sa = st ∧
        (∀ a, a < sa ∨ sa + 4 ≤ a → Memory.read m a = Memory.read s.mem a))

/-- R520, R521, R532: the completion of a management cycle, and the wake step.  That the turn of MII or ENV without such a step leaves
the state as it is is the model's choice (log entry 3). -/
def Obligations.MiiAndWakeSteps : Prop :=
  ∀ s : State,
    (∀ phy reg data, s.powered = true → s.mii = .write phy reg data →
      miiStep s = { s with mii := .idle, hist := .phyWrite phy reg data :: s.hist }) ∧
    (∀ phy reg v, s.powered = true → s.mii = .read phy reg → v = Config.phyRead phy reg s.hist →
      miiStep s = { s with
        mii := .idle
        regs := { s.regs with mrdd := v.setWidth 32 }
        hist := .phyRead phy reg v :: s.hist }) ∧
    (s.powered = false ∨ s.mii = .idle → miiStep s = s) ∧
    (∀ (draw : BitVec 9) (S : Word),
      (∀ b, S.getLsbD b = (decide (b < 9) && draw.getLsbD b &&
        decide (b = 8 ∧ s.regs.rxFilterCtrl.getLsbD 12 = true ∨
          (b < 6 ∨ b = 7) ∧ s.regs.rxFilterCtrl.getLsbD 13 = true))) →
      (s.powered = true → S ≠ 0 → wakeStep draw s = { s with regs := { s.regs with
        rxFilterWoLStatus := s.regs.rxFilterWoLStatus ||| S
        intStatus := s.regs.intStatus ||| 0x00002000 } }) ∧
      (s.powered = false ∨ S = 0 → wakeStep draw s = s))

/-! ### Reset and the whole machine -/

/-- R85, R33, R700, R701: the state after reset; the interrupt line is low there and no hardware agent has a step; and the
invariants of the statements below hold.  That FG is not halted and no operation is in progress there is the model's choice (log
entry 17), as is the state staying as it is where an agent has no step (log entry 3). -/
def Obligations.ResetState : Prop :=
  (State.reset.regs = (
      { mac1 := 0x00008000, mac2 := 0, ipgt := 0, ipgr := 0, clrt := 0x0000370F, maxf := 0x00000600, supp := 0, mcfg := 0
        mcmd := 0, madr := 0, mrdd := 0, sa0 := 0, sa1 := 0, sa2 := 0, command := 0, rxDescriptor := 0, rxStatus := 0
        rxDescriptorNumber := 0, rxProduceIndex := 0, rxConsumeIndex := 0, txDescriptor := 0, txStatus := 0
        txDescriptorNumber := 0, txProduceIndex := 0, txConsumeIndex := 0, rxFilterCtrl := 0, rxFilterWoLStatus := 0
        hashFilterL := 0, hashFilterH := 0, intStatus := 0, intEnable := 0 } : Regs) ∧
    State.reset.powered = false ∧ State.reset.mii = .idle ∧ (∀ n : Fin 10, State.reset.cb[n] = none) ∧
    State.reset.rxRingInit = false ∧ State.reset.txRingInit = false ∧ State.reset.drv = .uninitialized ∧
    State.reset.link = .unknown ∧ State.reset.irq = .idle ∧ State.reset.rxMidFrame = false ∧ State.reset.rxRemain = [] ∧
    State.reset.pc = 0 ∧ State.reset.ret = 0 ∧ State.reset.irqRet = 0 ∧ State.reset.fgOp = [] ∧
    State.reset.halted = false ∧ State.reset.hist = []) ∧
  (irqStep State.reset = .next State.reset ∧ (∀ o, rxdmaStep o State.reset = State.reset) ∧
    (∀ d, txdmaStep d State.reset = State.reset) ∧ miiStep State.reset = State.reset ∧
    ∀ b, wakeStep b State.reset = State.reset) ∧
  State.reset.mem.wf ∧ State.reset.regs.reservedZero ∧ State.reset.indicesInRange ∧ State.reset.rxFrameOk ∧
  State.reset.miiPowered ∧ State.reset.bodyOk ∧ State.reset.stageOk

/-- The memory keeps its canonical form in every step, whichever agent takes it: the model's own representation of R100. -/
def Obligations.MemoryInvariant : Prop :=
  ∀ s t : State, s.mem.wf → step s = .next t → t.mem.wf

/-- R201, R52, R57: in every step the reserved bits of every register stay 0 and every ring index stays below its ring's size. -/
def Obligations.RegisterInvariant : Prop :=
  ∀ s t : State, s.regs.reservedZero → s.indicesInRange → step s = .next t → t.regs.reservedZero ∧ t.indicesInRange

/-- R501, R404, R616, R551: in every step `rxMidFrame` stays the mark of remaining bytes, a management cycle is in flight only on a
powered block, and a callback body's program counter stays inside the body. -/
def Obligations.HiddenInvariant : Prop :=
  ∀ s t : State, s.rxFrameOk → s.miiPowered → s.bodyOk → step s = .next t → t.rxFrameOk ∧ t.miiPowered ∧ t.bodyOk

/-- R84, R86, R78, R122, R602, R616: what no step changes.  The history only grows; programs and bodies stay; only SETUP_CALLBACK writes
the callback table; the ring marks are never cleared; only INIT switches the block on; each index has its one writer, resets
apart; an unpowered block's hardware has no step; FG, once halted, stays so (R556).  A step that faults is FG's or IRQ's (R602): the
fault keeps the agent, the command and where in it, and the history with the fault itself appended.  That the turn of an agent without a
step leaves the state as it is and passes to `Config.sched` (log entry 3), and how the outcome carries what a fault keeps (log entry 14),
is the model's choice. -/
def Obligations.WhatNoStepChanges : Prop :=
  (∀ s t : State, step s = .next t →
    (∃ es, t.hist = es ++ s.hist) ∧ t.prog = s.prog ∧ t.bodies = s.bodies ∧
    (s.fgHalted = true → t.fgHalted = true ∧ t.pc = s.pc ∧ t.ret = s.ret) ∧
    (s.rxRingInit = true → t.rxRingInit = true) ∧ (s.txRingInit = true → t.txRingInit = true) ∧
    (t.cb ≠ s.cb → s.turn = .fg ∧ s.irq = .idle ∧ s.fgOp = [] ∧
      ∃ l mask fn, s.prog[s.pc]? = some l ∧ decode l = some (.setupCallback mask fn)) ∧
    (s.powered = false → t.powered = true → s.turn = .fg ∧ s.irq = .idle ∧ s.fgOp = [] ∧
      ∃ l mac mode, s.prog[s.pc]? = some l ∧ decode l = some (.init mac mode)) ∧
    (t.regs.rxProduceIndex ≠ s.regs.rxProduceIndex → (∃ o, s.turn = .rxdma o) ∨ t.regs.rxProduceIndex = 0) ∧
    (t.regs.txConsumeIndex ≠ s.regs.txConsumeIndex → (∃ d, s.turn = .txdma d) ∨ t.regs.txConsumeIndex = 0) ∧
    (t.regs.rxConsumeIndex ≠ s.regs.rxConsumeIndex → s.turn = .fg ∨ s.turn = .irq) ∧
    (t.regs.txProduceIndex ≠ s.regs.txProduceIndex → s.turn = .fg ∨ s.turn = .irq) ∧
    (s.powered = false → s.turn ≠ .fg → s.turn ≠ .irq → t = passTurn s)) ∧
  (∀ (s : State) (f : Fault), step s = .fault f →
    (s.turn = .fg ∧ s.irq = .idle ∨ s.turn = .irq ∧ s.irq ≠ .idle) ∧
    f.site.agent = s.agent ∧ f.site.command = curLine s ∧ f.site.op = curOp s ∧ f.site.irq = s.irq ∧
    f.site.hist = .fault s.agent f.reason f.site.addr :: s.hist)

/-- R713: every operation ends: some measure of the operation in progress falls in each of its own micro-steps. -/
def Obligations.OperationsTerminate : Prop :=
  ∃ bound : List OpFrame → Nat, ∀ s t : State, s.inProgram → curOp s ≠ [] → continueOp s = .next t →
    bound (curOp t) < bound (curOp s)
end

