-- ==== Sys2Proof/Laws/Memory.lean ====
section
/-!
SUPPORT. System memory: a read after a write, at the same address and at every other, for bytes, words and runs of bytes; and
that every write keeps the canonical form.
-/

namespace Sys2Proof.Machine

theorem Memory.read_insert (m : Memory) (a c : Nat) (b : Byte) :
    Memory.read (Memory.insert a b m) c = if a = c then b else Memory.read m c := by
  induction m with
  | nil => simp [Memory.insert, Memory.read]
  | cons x m ih =>
    obtain ⟨k, d⟩ := x
    simp only [Memory.insert]
    split
    · simp only [Memory.read, ih]
      by_cases h1 : k = c
      · rw [if_pos h1, if_pos h1, if_neg (by omega)]
      · rw [if_neg h1, if_neg h1]
    · split
      · rename_i hk
        subst hk
        simp only [Memory.read]
        by_cases h1 : k = c
        · rw [if_pos h1, if_pos h1]
        · rw [if_neg h1, if_neg h1, if_neg h1]
      · simp only [Memory.read]

theorem Memory.read_filter (m : Memory) (a c : Nat) :
    Memory.read (m.filter (fun x => x.1 ≠ a)) c = if a = c then Config.resetByte a else Memory.read m c := by
  induction m with
  | nil => simp only [List.filter_nil, Memory.read]; split <;> simp_all
  | cons x m ih =>
    obtain ⟨k, d⟩ := x
    by_cases hk : k = a
    · subst hk; simp only [ne_eq, not_true, decide_false, List.filter_cons_of_neg, Bool.false_eq_true,
        not_false_eq_true] at ih ⊢
      rw [ih]; simp only [Memory.read]
      split <;> rfl
    · rw [List.filter_cons_of_pos (by simpa using hk)]
      simp only [Memory.read, ih]
      by_cases h1 : k = c
      · rw [if_pos h1, if_pos h1, if_neg (by omega)]
      · rw [if_neg h1, if_neg h1]

/-- A byte reads as it was last written. -/
theorem Memory.read_write (m : Memory) (a c : Nat) (b : Byte) :
    Memory.read (Memory.write a b m) c = if a = c then b else Memory.read m c := by
  unfold Memory.write
  split
  · rename_i h; subst h; exact Memory.read_filter m a c
  · exact Memory.read_insert m a c b

/-- A write leaves every other byte. -/
theorem Memory.read_write_other {a c : Nat} (m : Memory) (b : Byte) (h : c ≠ a) :
    Memory.read (Memory.write a b m) c = Memory.read m c := by
  rw [Memory.read_write, if_neg (Ne.symm h)]

/-- The bytes of a word write. -/
theorem Memory.read_writeWord (m : Memory) (a c : Nat) (v : Word) :
    Memory.read (Memory.writeWord a v m) c =
      if a ≤ c ∧ c < a + 4 then byteOf v (c - a) else Memory.read m c := by
  simp only [Memory.writeWord, Memory.read_write]
  by_cases h : a ≤ c ∧ c < a + 4
  · obtain ⟨k, rfl⟩ := Nat.exists_eq_add_of_le h.1
    have hk : k < 4 := by omega
    interval_cases k <;> simp
  · rw [if_neg h, if_neg (by omega), if_neg (by omega), if_neg (by omega), if_neg (by omega)]

/-- A word write leaves every byte outside its four. -/
theorem Memory.read_writeWord_other {a c : Nat} (m : Memory) (v : Word) (h : c < a ∨ a + 4 ≤ c) :
    Memory.read (Memory.writeWord a v m) c = Memory.read m c := by
  rw [Memory.read_writeWord, if_neg (by omega)]

theorem byteOf_append (v : Word) : byteOf v 3 ++ byteOf v 2 ++ byteOf v 1 ++ byteOf v 0 = v := by
  ext i hi
  simp only [byteOf, BitVec.getElem_append, BitVec.getElem_extractLsb']
  split
  · simp [← BitVec.getLsbD_eq_getElem]
  · split
    · rw [← BitVec.getLsbD_eq_getElem hi]; congr 1; omega
    · split
      · rw [← BitVec.getLsbD_eq_getElem hi]; congr 1; omega
      · rw [← BitVec.getLsbD_eq_getElem hi]; congr 1; omega

/-- A word reads as it was last written. -/
theorem Memory.readWord_writeWord (m : Memory) (a : Nat) (v : Word) :
    Memory.readWord (Memory.writeWord a v m) a = v := by
  simp only [Memory.readWord, Memory.read_writeWord]
  rw [if_pos (by omega), if_pos (by omega), if_pos (by omega), if_pos (by omega)]
  simpa using byteOf_append v

/-- A word read is untouched by a word write that does not meet it. -/
theorem Memory.readWord_writeWord_other {a c : Nat} (m : Memory) (v : Word) (h : c + 4 ≤ a ∨ a + 4 ≤ c) :
    Memory.readWord (Memory.writeWord a v m) c = Memory.readWord m c := by
  simp only [Memory.readWord]
  rw [Memory.read_writeWord_other _ _ (by omega), Memory.read_writeWord_other _ _ (by omega),
    Memory.read_writeWord_other _ _ (by omega), Memory.read_writeWord_other _ _ (by omega)]

/-- The bytes of a run of byte writes. -/
theorem Memory.read_writeBytes (bs : List Byte) (m : Memory) (a c : Nat) :
    Memory.read (Memory.writeBytes a bs m) c =
      if a ≤ c ∧ c < a + bs.length then bs.getD (c - a) 0 else Memory.read m c := by
  induction bs generalizing a m with
  | nil => simp only [Memory.writeBytes, List.length_nil]; rw [if_neg (by omega)]
  | cons b bs ih =>
    simp only [Memory.writeBytes, ih, Memory.read_write, List.length_cons]
    by_cases h1 : a + 1 ≤ c ∧ c < a + 1 + bs.length
    · rw [if_pos h1, if_pos (by omega)]
      obtain ⟨k, rfl⟩ := Nat.exists_eq_add_of_le h1.1
      have : a + 1 + k - a = k + 1 := by omega
      rw [this, show a + 1 + k - (a + 1) = k by omega]
      simp
    · rw [if_neg h1]
      by_cases h2 : a = c
      · subst h2; rw [if_pos rfl, if_pos (by omega)]; simp
      · rw [if_neg h2, if_neg (by omega)]

/-! ### The canonical form -/

theorem Memory.mem_insert {m : Memory} {a : Nat} {b : Byte} {c : Host.Cell} (h : c ∈ Memory.insert a b m) :
    c = (a, b) ∨ c ∈ m := by
  induction m with
  | nil => simpa [Memory.insert] using h
  | cons x m ih =>
    obtain ⟨k, d⟩ := x
    simp only [Memory.insert] at h
    split at h
    · rcases List.mem_cons.mp h with h | h
      · exact .inr (h ▸ List.mem_cons_self)
      · exact (ih h).imp id (List.mem_cons_of_mem _)
    · split at h
      · rcases List.mem_cons.mp h with h | h
        · exact .inl h
        · exact .inr (List.mem_cons_of_mem _ h)
      · exact (List.mem_cons.mp h)

theorem Memory.wf_insert {m : Memory} {a : Nat} {b : Byte} (hm : Memory.wf m) (hb : b ≠ Config.resetByte a) :
    Memory.wf (Memory.insert a b m) := by
  refine ⟨?_, fun c hc => ?_⟩
  · have hs := hm.1
    clear hm
    induction m with
    | nil => simp [Memory.insert]
    | cons x m ih =>
      obtain ⟨k, d⟩ := x
      obtain ⟨h1, h2⟩ := List.pairwise_cons.mp hs
      simp only [Memory.insert]
      split
      · refine List.pairwise_cons.mpr ⟨fun c hc => ?_, ih h2⟩
        rcases Memory.mem_insert hc with rfl | hc
        · assumption
        · exact h1 c hc
      · split
        · rename_i hk; subst hk
          exact List.pairwise_cons.mpr ⟨h1, h2⟩
        · refine List.pairwise_cons.mpr ⟨fun c hc => ?_, hs⟩
          rcases List.mem_cons.mp hc with rfl | hc
          · show a < k; omega
          · have : k < c.1 := h1 c hc
            show a < c.1; omega
  · rcases Memory.mem_insert hc with rfl | hc
    · exact hb
    · exact hm.2 c hc

/-- A byte write keeps the canonical form. -/
theorem Memory.wf_write {m : Memory} (a : Nat) (b : Byte) (hm : Memory.wf m) : Memory.wf (Memory.write a b m) := by
  unfold Memory.write
  split
  · exact ⟨hm.1.filter _, fun c hc => hm.2 c (List.mem_filter.mp hc).1⟩
  · exact Memory.wf_insert hm ‹_›

/-- A word write keeps the canonical form. -/
theorem Memory.wf_writeWord {m : Memory} (a : Nat) (v : Word) (hm : Memory.wf m) :
    Memory.wf (Memory.writeWord a v m) :=
  Memory.wf_write _ _ (Memory.wf_write _ _ (Memory.wf_write _ _ (Memory.wf_write _ _ hm)))

/-- A run of byte writes keeps the canonical form. -/
theorem Memory.wf_writeBytes (bs : List Byte) {m : Memory} (a : Nat) (hm : Memory.wf m) :
    Memory.wf (Memory.writeBytes a bs m) := by
  induction bs generalizing a m with
  | nil => exact hm
  | cons b bs ih => exact ih _ (Memory.wf_write _ _ hm)

/-- Memory lists nothing at reset. -/
theorem State.reset_wf : Memory.wf State.reset.mem := ⟨List.Pairwise.nil, by simp [State.reset]⟩

end Sys2Proof.Machine
end

