-- ==== Sys2Proof/Laws/State.lean ====
section
/-!
SUPPORT. The fields of the named updates of the state, one lemma for each field an update leaves alone, and the values of the
others.  No later proof unfolds a record update.
-/

namespace Sys2Proof.Machine

/-! ### Updates that are one record update -/

@[simp] theorem State.log_regs (e : Event) (s : State) : (s.log e).regs = s.regs := rfl
@[simp] theorem State.log_powered (e : Event) (s : State) : (s.log e).powered = s.powered := rfl
@[simp] theorem State.log_mii (e : Event) (s : State) : (s.log e).mii = s.mii := rfl
@[simp] theorem State.log_cb (e : Event) (s : State) : (s.log e).cb = s.cb := rfl
@[simp] theorem State.log_rxRingInit (e : Event) (s : State) : (s.log e).rxRingInit = s.rxRingInit := rfl
@[simp] theorem State.log_txRingInit (e : Event) (s : State) : (s.log e).txRingInit = s.txRingInit := rfl
@[simp] theorem State.log_drv (e : Event) (s : State) : (s.log e).drv = s.drv := rfl
@[simp] theorem State.log_link (e : Event) (s : State) : (s.log e).link = s.link := rfl
@[simp] theorem State.log_irq (e : Event) (s : State) : (s.log e).irq = s.irq := rfl
@[simp] theorem State.log_rxMidFrame (e : Event) (s : State) : (s.log e).rxMidFrame = s.rxMidFrame := rfl
@[simp] theorem State.log_rxRemain (e : Event) (s : State) : (s.log e).rxRemain = s.rxRemain := rfl
@[simp] theorem State.log_rxDa (e : Event) (s : State) : (s.log e).rxDa = s.rxDa := rfl
@[simp] theorem State.log_rxErr (e : Event) (s : State) : (s.log e).rxErr = s.rxErr := rfl
@[simp] theorem State.log_rxFail (e : Event) (s : State) : (s.log e).rxFail = s.rxFail := rfl
@[simp] theorem State.log_mem (e : Event) (s : State) : (s.log e).mem = s.mem := rfl
@[simp] theorem State.log_prog (e : Event) (s : State) : (s.log e).prog = s.prog := rfl
@[simp] theorem State.log_bodies (e : Event) (s : State) : (s.log e).bodies = s.bodies := rfl
@[simp] theorem State.log_pc (e : Event) (s : State) : (s.log e).pc = s.pc := rfl
@[simp] theorem State.log_ret (e : Event) (s : State) : (s.log e).ret = s.ret := rfl
@[simp] theorem State.log_fgOp (e : Event) (s : State) : (s.log e).fgOp = s.fgOp := rfl
@[simp] theorem State.log_halted (e : Event) (s : State) : (s.log e).halted = s.halted := rfl
@[simp] theorem State.log_irqRet (e : Event) (s : State) : (s.log e).irqRet = s.irqRet := rfl
@[simp] theorem State.log_turn (e : Event) (s : State) : (s.log e).turn = s.turn := rfl
@[simp] theorem State.log_tick (e : Event) (s : State) : (s.log e).tick = s.tick := rfl
@[simp] theorem State.log_hist (e : Event) (s : State) : (s.log e).hist = e :: s.hist := rfl
@[simp] theorem State.logAll_regs (es : List Event) (s : State) : (s.logAll es).regs = s.regs := rfl
@[simp] theorem State.logAll_powered (es : List Event) (s : State) : (s.logAll es).powered = s.powered := rfl
@[simp] theorem State.logAll_mii (es : List Event) (s : State) : (s.logAll es).mii = s.mii := rfl
@[simp] theorem State.logAll_cb (es : List Event) (s : State) : (s.logAll es).cb = s.cb := rfl
@[simp] theorem State.logAll_rxRingInit (es : List Event) (s : State) : (s.logAll es).rxRingInit = s.rxRingInit := rfl
@[simp] theorem State.logAll_txRingInit (es : List Event) (s : State) : (s.logAll es).txRingInit = s.txRingInit := rfl
@[simp] theorem State.logAll_drv (es : List Event) (s : State) : (s.logAll es).drv = s.drv := rfl
@[simp] theorem State.logAll_link (es : List Event) (s : State) : (s.logAll es).link = s.link := rfl
@[simp] theorem State.logAll_irq (es : List Event) (s : State) : (s.logAll es).irq = s.irq := rfl
@[simp] theorem State.logAll_rxMidFrame (es : List Event) (s : State) : (s.logAll es).rxMidFrame = s.rxMidFrame := rfl
@[simp] theorem State.logAll_rxRemain (es : List Event) (s : State) : (s.logAll es).rxRemain = s.rxRemain := rfl
@[simp] theorem State.logAll_rxDa (es : List Event) (s : State) : (s.logAll es).rxDa = s.rxDa := rfl
@[simp] theorem State.logAll_rxErr (es : List Event) (s : State) : (s.logAll es).rxErr = s.rxErr := rfl
@[simp] theorem State.logAll_rxFail (es : List Event) (s : State) : (s.logAll es).rxFail = s.rxFail := rfl
@[simp] theorem State.logAll_mem (es : List Event) (s : State) : (s.logAll es).mem = s.mem := rfl
@[simp] theorem State.logAll_prog (es : List Event) (s : State) : (s.logAll es).prog = s.prog := rfl
@[simp] theorem State.logAll_bodies (es : List Event) (s : State) : (s.logAll es).bodies = s.bodies := rfl
@[simp] theorem State.logAll_pc (es : List Event) (s : State) : (s.logAll es).pc = s.pc := rfl
@[simp] theorem State.logAll_ret (es : List Event) (s : State) : (s.logAll es).ret = s.ret := rfl
@[simp] theorem State.logAll_fgOp (es : List Event) (s : State) : (s.logAll es).fgOp = s.fgOp := rfl
@[simp] theorem State.logAll_halted (es : List Event) (s : State) : (s.logAll es).halted = s.halted := rfl
@[simp] theorem State.logAll_irqRet (es : List Event) (s : State) : (s.logAll es).irqRet = s.irqRet := rfl
@[simp] theorem State.logAll_turn (es : List Event) (s : State) : (s.logAll es).turn = s.turn := rfl
@[simp] theorem State.logAll_tick (es : List Event) (s : State) : (s.logAll es).tick = s.tick := rfl
@[simp] theorem State.logAll_hist (es : List Event) (s : State) : (s.logAll es).hist = es.reverse ++ s.hist := rfl
@[simp] theorem State.setIrq_regs (st : Word) (p : IrqPos) (s : State) : (s.setIrq st p).regs = s.regs := rfl
@[simp] theorem State.setIrq_powered (st : Word) (p : IrqPos) (s : State) : (s.setIrq st p).powered = s.powered := rfl
@[simp] theorem State.setIrq_mii (st : Word) (p : IrqPos) (s : State) : (s.setIrq st p).mii = s.mii := rfl
@[simp] theorem State.setIrq_cb (st : Word) (p : IrqPos) (s : State) : (s.setIrq st p).cb = s.cb := rfl
@[simp] theorem State.setIrq_rxRingInit (st : Word) (p : IrqPos) (s : State) : (s.setIrq st p).rxRingInit = s.rxRingInit := rfl
@[simp] theorem State.setIrq_txRingInit (st : Word) (p : IrqPos) (s : State) : (s.setIrq st p).txRingInit = s.txRingInit := rfl
@[simp] theorem State.setIrq_drv (st : Word) (p : IrqPos) (s : State) : (s.setIrq st p).drv = s.drv := rfl
@[simp] theorem State.setIrq_link (st : Word) (p : IrqPos) (s : State) : (s.setIrq st p).link = s.link := rfl
@[simp] theorem State.setIrq_rxMidFrame (st : Word) (p : IrqPos) (s : State) : (s.setIrq st p).rxMidFrame = s.rxMidFrame := rfl
@[simp] theorem State.setIrq_rxRemain (st : Word) (p : IrqPos) (s : State) : (s.setIrq st p).rxRemain = s.rxRemain := rfl
@[simp] theorem State.setIrq_rxDa (st : Word) (p : IrqPos) (s : State) : (s.setIrq st p).rxDa = s.rxDa := rfl
@[simp] theorem State.setIrq_rxErr (st : Word) (p : IrqPos) (s : State) : (s.setIrq st p).rxErr = s.rxErr := rfl
@[simp] theorem State.setIrq_rxFail (st : Word) (p : IrqPos) (s : State) : (s.setIrq st p).rxFail = s.rxFail := rfl
@[simp] theorem State.setIrq_mem (st : Word) (p : IrqPos) (s : State) : (s.setIrq st p).mem = s.mem := rfl
@[simp] theorem State.setIrq_prog (st : Word) (p : IrqPos) (s : State) : (s.setIrq st p).prog = s.prog := rfl
@[simp] theorem State.setIrq_bodies (st : Word) (p : IrqPos) (s : State) : (s.setIrq st p).bodies = s.bodies := rfl
@[simp] theorem State.setIrq_pc (st : Word) (p : IrqPos) (s : State) : (s.setIrq st p).pc = s.pc := rfl
@[simp] theorem State.setIrq_ret (st : Word) (p : IrqPos) (s : State) : (s.setIrq st p).ret = s.ret := rfl
@[simp] theorem State.setIrq_fgOp (st : Word) (p : IrqPos) (s : State) : (s.setIrq st p).fgOp = s.fgOp := rfl
@[simp] theorem State.setIrq_halted (st : Word) (p : IrqPos) (s : State) : (s.setIrq st p).halted = s.halted := rfl
@[simp] theorem State.setIrq_irqRet (st : Word) (p : IrqPos) (s : State) : (s.setIrq st p).irqRet = s.irqRet := rfl
@[simp] theorem State.setIrq_hist (st : Word) (p : IrqPos) (s : State) : (s.setIrq st p).hist = s.hist := rfl
@[simp] theorem State.setIrq_turn (st : Word) (p : IrqPos) (s : State) : (s.setIrq st p).turn = s.turn := rfl
@[simp] theorem State.setIrq_tick (st : Word) (p : IrqPos) (s : State) : (s.setIrq st p).tick = s.tick := rfl
@[simp] theorem State.setIrq_irq (st : Word) (p : IrqPos) (s : State) : (s.setIrq st p).irq = .running st p := rfl
@[simp] theorem takeInterrupt_regs (s : State) : (takeInterrupt s).regs = s.regs := rfl
@[simp] theorem takeInterrupt_powered (s : State) : (takeInterrupt s).powered = s.powered := rfl
@[simp] theorem takeInterrupt_mii (s : State) : (takeInterrupt s).mii = s.mii := rfl
@[simp] theorem takeInterrupt_cb (s : State) : (takeInterrupt s).cb = s.cb := rfl
@[simp] theorem takeInterrupt_rxRingInit (s : State) : (takeInterrupt s).rxRingInit = s.rxRingInit := rfl
@[simp] theorem takeInterrupt_txRingInit (s : State) : (takeInterrupt s).txRingInit = s.txRingInit := rfl
@[simp] theorem takeInterrupt_drv (s : State) : (takeInterrupt s).drv = s.drv := rfl
@[simp] theorem takeInterrupt_link (s : State) : (takeInterrupt s).link = s.link := rfl
@[simp] theorem takeInterrupt_rxMidFrame (s : State) : (takeInterrupt s).rxMidFrame = s.rxMidFrame := rfl
@[simp] theorem takeInterrupt_rxRemain (s : State) : (takeInterrupt s).rxRemain = s.rxRemain := rfl
@[simp] theorem takeInterrupt_rxDa (s : State) : (takeInterrupt s).rxDa = s.rxDa := rfl
@[simp] theorem takeInterrupt_rxErr (s : State) : (takeInterrupt s).rxErr = s.rxErr := rfl
@[simp] theorem takeInterrupt_rxFail (s : State) : (takeInterrupt s).rxFail = s.rxFail := rfl
@[simp] theorem takeInterrupt_mem (s : State) : (takeInterrupt s).mem = s.mem := rfl
@[simp] theorem takeInterrupt_prog (s : State) : (takeInterrupt s).prog = s.prog := rfl
@[simp] theorem takeInterrupt_bodies (s : State) : (takeInterrupt s).bodies = s.bodies := rfl
@[simp] theorem takeInterrupt_pc (s : State) : (takeInterrupt s).pc = s.pc := rfl
@[simp] theorem takeInterrupt_ret (s : State) : (takeInterrupt s).ret = s.ret := rfl
@[simp] theorem takeInterrupt_fgOp (s : State) : (takeInterrupt s).fgOp = s.fgOp := rfl
@[simp] theorem takeInterrupt_halted (s : State) : (takeInterrupt s).halted = s.halted := rfl
@[simp] theorem takeInterrupt_irqRet (s : State) : (takeInterrupt s).irqRet = s.irqRet := rfl
@[simp] theorem takeInterrupt_hist (s : State) : (takeInterrupt s).hist = s.hist := rfl
@[simp] theorem takeInterrupt_turn (s : State) : (takeInterrupt s).turn = s.turn := rfl
@[simp] theorem takeInterrupt_tick (s : State) : (takeInterrupt s).tick = s.tick := rfl
@[simp] theorem takeInterrupt_irq (s : State) : (takeInterrupt s).irq = .running 0 .start := rfl
@[simp] theorem returnInterrupt_regs (s : State) : (returnInterrupt s).regs = s.regs := rfl
@[simp] theorem returnInterrupt_powered (s : State) : (returnInterrupt s).powered = s.powered := rfl
@[simp] theorem returnInterrupt_mii (s : State) : (returnInterrupt s).mii = s.mii := rfl
@[simp] theorem returnInterrupt_cb (s : State) : (returnInterrupt s).cb = s.cb := rfl
@[simp] theorem returnInterrupt_rxRingInit (s : State) : (returnInterrupt s).rxRingInit = s.rxRingInit := rfl
@[simp] theorem returnInterrupt_txRingInit (s : State) : (returnInterrupt s).txRingInit = s.txRingInit := rfl
@[simp] theorem returnInterrupt_drv (s : State) : (returnInterrupt s).drv = s.drv := rfl
@[simp] theorem returnInterrupt_link (s : State) : (returnInterrupt s).link = s.link := rfl
@[simp] theorem returnInterrupt_rxMidFrame (s : State) : (returnInterrupt s).rxMidFrame = s.rxMidFrame := rfl
@[simp] theorem returnInterrupt_rxRemain (s : State) : (returnInterrupt s).rxRemain = s.rxRemain := rfl
@[simp] theorem returnInterrupt_rxDa (s : State) : (returnInterrupt s).rxDa = s.rxDa := rfl
@[simp] theorem returnInterrupt_rxErr (s : State) : (returnInterrupt s).rxErr = s.rxErr := rfl
@[simp] theorem returnInterrupt_rxFail (s : State) : (returnInterrupt s).rxFail = s.rxFail := rfl
@[simp] theorem returnInterrupt_mem (s : State) : (returnInterrupt s).mem = s.mem := rfl
@[simp] theorem returnInterrupt_prog (s : State) : (returnInterrupt s).prog = s.prog := rfl
@[simp] theorem returnInterrupt_bodies (s : State) : (returnInterrupt s).bodies = s.bodies := rfl
@[simp] theorem returnInterrupt_pc (s : State) : (returnInterrupt s).pc = s.pc := rfl
@[simp] theorem returnInterrupt_ret (s : State) : (returnInterrupt s).ret = s.ret := rfl
@[simp] theorem returnInterrupt_fgOp (s : State) : (returnInterrupt s).fgOp = s.fgOp := rfl
@[simp] theorem returnInterrupt_halted (s : State) : (returnInterrupt s).halted = s.halted := rfl
@[simp] theorem returnInterrupt_irqRet (s : State) : (returnInterrupt s).irqRet = s.irqRet := rfl
@[simp] theorem returnInterrupt_hist (s : State) : (returnInterrupt s).hist = s.hist := rfl
@[simp] theorem returnInterrupt_turn (s : State) : (returnInterrupt s).turn = s.turn := rfl
@[simp] theorem returnInterrupt_tick (s : State) : (returnInterrupt s).tick = s.tick := rfl
@[simp] theorem returnInterrupt_irq (s : State) : (returnInterrupt s).irq = .idle := rfl
@[simp] theorem passTurn_regs (s : State) : (passTurn s).regs = s.regs := rfl
@[simp] theorem passTurn_powered (s : State) : (passTurn s).powered = s.powered := rfl
@[simp] theorem passTurn_mii (s : State) : (passTurn s).mii = s.mii := rfl
@[simp] theorem passTurn_cb (s : State) : (passTurn s).cb = s.cb := rfl
@[simp] theorem passTurn_rxRingInit (s : State) : (passTurn s).rxRingInit = s.rxRingInit := rfl
@[simp] theorem passTurn_txRingInit (s : State) : (passTurn s).txRingInit = s.txRingInit := rfl
@[simp] theorem passTurn_drv (s : State) : (passTurn s).drv = s.drv := rfl
@[simp] theorem passTurn_link (s : State) : (passTurn s).link = s.link := rfl
@[simp] theorem passTurn_irq (s : State) : (passTurn s).irq = s.irq := rfl
@[simp] theorem passTurn_rxMidFrame (s : State) : (passTurn s).rxMidFrame = s.rxMidFrame := rfl
@[simp] theorem passTurn_rxRemain (s : State) : (passTurn s).rxRemain = s.rxRemain := rfl
@[simp] theorem passTurn_rxDa (s : State) : (passTurn s).rxDa = s.rxDa := rfl
@[simp] theorem passTurn_rxErr (s : State) : (passTurn s).rxErr = s.rxErr := rfl
@[simp] theorem passTurn_rxFail (s : State) : (passTurn s).rxFail = s.rxFail := rfl
@[simp] theorem passTurn_mem (s : State) : (passTurn s).mem = s.mem := rfl
@[simp] theorem passTurn_prog (s : State) : (passTurn s).prog = s.prog := rfl
@[simp] theorem passTurn_bodies (s : State) : (passTurn s).bodies = s.bodies := rfl
@[simp] theorem passTurn_pc (s : State) : (passTurn s).pc = s.pc := rfl
@[simp] theorem passTurn_ret (s : State) : (passTurn s).ret = s.ret := rfl
@[simp] theorem passTurn_fgOp (s : State) : (passTurn s).fgOp = s.fgOp := rfl
@[simp] theorem passTurn_halted (s : State) : (passTurn s).halted = s.halted := rfl
@[simp] theorem passTurn_irqRet (s : State) : (passTurn s).irqRet = s.irqRet := rfl
@[simp] theorem passTurn_hist (s : State) : (passTurn s).hist = s.hist := rfl
@[simp] theorem passTurn_tick (s : State) : (passTurn s).tick = s.tick + 1 := rfl
@[simp] theorem passTurn_turn (s : State) : (passTurn s).turn = Config.sched s.tick := rfl
@[simp] theorem writeEffect_powered (r : Reg) (v : Word) (s : State) : (writeEffect r v s).powered = s.powered := rfl
@[simp] theorem writeEffect_cb (r : Reg) (v : Word) (s : State) : (writeEffect r v s).cb = s.cb := rfl
@[simp] theorem writeEffect_rxRingInit (r : Reg) (v : Word) (s : State) : (writeEffect r v s).rxRingInit = s.rxRingInit := rfl
@[simp] theorem writeEffect_txRingInit (r : Reg) (v : Word) (s : State) : (writeEffect r v s).txRingInit = s.txRingInit := rfl
@[simp] theorem writeEffect_drv (r : Reg) (v : Word) (s : State) : (writeEffect r v s).drv = s.drv := rfl
@[simp] theorem writeEffect_link (r : Reg) (v : Word) (s : State) : (writeEffect r v s).link = s.link := rfl
@[simp] theorem writeEffect_irq (r : Reg) (v : Word) (s : State) : (writeEffect r v s).irq = s.irq := rfl
@[simp] theorem writeEffect_rxDa (r : Reg) (v : Word) (s : State) : (writeEffect r v s).rxDa = s.rxDa := rfl
@[simp] theorem writeEffect_rxErr (r : Reg) (v : Word) (s : State) : (writeEffect r v s).rxErr = s.rxErr := rfl
@[simp] theorem writeEffect_rxFail (r : Reg) (v : Word) (s : State) : (writeEffect r v s).rxFail = s.rxFail := rfl
@[simp] theorem writeEffect_mem (r : Reg) (v : Word) (s : State) : (writeEffect r v s).mem = s.mem := rfl
@[simp] theorem writeEffect_prog (r : Reg) (v : Word) (s : State) : (writeEffect r v s).prog = s.prog := rfl
@[simp] theorem writeEffect_bodies (r : Reg) (v : Word) (s : State) : (writeEffect r v s).bodies = s.bodies := rfl
@[simp] theorem writeEffect_pc (r : Reg) (v : Word) (s : State) : (writeEffect r v s).pc = s.pc := rfl
@[simp] theorem writeEffect_ret (r : Reg) (v : Word) (s : State) : (writeEffect r v s).ret = s.ret := rfl
@[simp] theorem writeEffect_fgOp (r : Reg) (v : Word) (s : State) : (writeEffect r v s).fgOp = s.fgOp := rfl
@[simp] theorem writeEffect_halted (r : Reg) (v : Word) (s : State) : (writeEffect r v s).halted = s.halted := rfl
@[simp] theorem writeEffect_irqRet (r : Reg) (v : Word) (s : State) : (writeEffect r v s).irqRet = s.irqRet := rfl
@[simp] theorem writeEffect_hist (r : Reg) (v : Word) (s : State) : (writeEffect r v s).hist = s.hist := rfl
@[simp] theorem writeEffect_turn (r : Reg) (v : Word) (s : State) : (writeEffect r v s).turn = s.turn := rfl
@[simp] theorem writeEffect_tick (r : Reg) (v : Word) (s : State) : (writeEffect r v s).tick = s.tick := rfl
@[simp] theorem writeEffect_regs (r : Reg) (v : Word) (s : State) : (writeEffect r v s).regs = writeRegs r v s.regs := rfl
@[simp] theorem writeEffect_mii (r : Reg) (v : Word) (s : State) : (writeEffect r v s).mii = writeMii r v s := rfl

/-! ### The dispatcher's internal moves: they change `irq` and append invocations -/

@[simp] theorem scan_regs (ns : List (Fin 10)) (st : Word) (s : State) : (scan ns st s).regs = s.regs := by
  induction ns generalizing s with
  | nil => simp only [scan]; split <;> rfl
  | cons n ns ih => simp only [scan]; split <;> (try split) <;> (try split) <;> simp [ih]
@[simp] theorem scan_powered (ns : List (Fin 10)) (st : Word) (s : State) : (scan ns st s).powered = s.powered := by
  induction ns generalizing s with
  | nil => simp only [scan]; split <;> rfl
  | cons n ns ih => simp only [scan]; split <;> (try split) <;> (try split) <;> simp [ih]
@[simp] theorem scan_mii (ns : List (Fin 10)) (st : Word) (s : State) : (scan ns st s).mii = s.mii := by
  induction ns generalizing s with
  | nil => simp only [scan]; split <;> rfl
  | cons n ns ih => simp only [scan]; split <;> (try split) <;> (try split) <;> simp [ih]
@[simp] theorem scan_cb (ns : List (Fin 10)) (st : Word) (s : State) : (scan ns st s).cb = s.cb := by
  induction ns generalizing s with
  | nil => simp only [scan]; split <;> rfl
  | cons n ns ih => simp only [scan]; split <;> (try split) <;> (try split) <;> simp [ih]
@[simp] theorem scan_rxRingInit (ns : List (Fin 10)) (st : Word) (s : State) : (scan ns st s).rxRingInit = s.rxRingInit := by
  induction ns generalizing s with
  | nil => simp only [scan]; split <;> rfl
  | cons n ns ih => simp only [scan]; split <;> (try split) <;> (try split) <;> simp [ih]
@[simp] theorem scan_txRingInit (ns : List (Fin 10)) (st : Word) (s : State) : (scan ns st s).txRingInit = s.txRingInit := by
  induction ns generalizing s with
  | nil => simp only [scan]; split <;> rfl
  | cons n ns ih => simp only [scan]; split <;> (try split) <;> (try split) <;> simp [ih]
@[simp] theorem scan_drv (ns : List (Fin 10)) (st : Word) (s : State) : (scan ns st s).drv = s.drv := by
  induction ns generalizing s with
  | nil => simp only [scan]; split <;> rfl
  | cons n ns ih => simp only [scan]; split <;> (try split) <;> (try split) <;> simp [ih]
@[simp] theorem scan_link (ns : List (Fin 10)) (st : Word) (s : State) : (scan ns st s).link = s.link := by
  induction ns generalizing s with
  | nil => simp only [scan]; split <;> rfl
  | cons n ns ih => simp only [scan]; split <;> (try split) <;> (try split) <;> simp [ih]
@[simp] theorem scan_rxMidFrame (ns : List (Fin 10)) (st : Word) (s : State) : (scan ns st s).rxMidFrame = s.rxMidFrame := by
  induction ns generalizing s with
  | nil => simp only [scan]; split <;> rfl
  | cons n ns ih => simp only [scan]; split <;> (try split) <;> (try split) <;> simp [ih]
@[simp] theorem scan_rxRemain (ns : List (Fin 10)) (st : Word) (s : State) : (scan ns st s).rxRemain = s.rxRemain := by
  induction ns generalizing s with
  | nil => simp only [scan]; split <;> rfl
  | cons n ns ih => simp only [scan]; split <;> (try split) <;> (try split) <;> simp [ih]
@[simp] theorem scan_rxDa (ns : List (Fin 10)) (st : Word) (s : State) : (scan ns st s).rxDa = s.rxDa := by
  induction ns generalizing s with
  | nil => simp only [scan]; split <;> rfl
  | cons n ns ih => simp only [scan]; split <;> (try split) <;> (try split) <;> simp [ih]
@[simp] theorem scan_rxErr (ns : List (Fin 10)) (st : Word) (s : State) : (scan ns st s).rxErr = s.rxErr := by
  induction ns generalizing s with
  | nil => simp only [scan]; split <;> rfl
  | cons n ns ih => simp only [scan]; split <;> (try split) <;> (try split) <;> simp [ih]
@[simp] theorem scan_rxFail (ns : List (Fin 10)) (st : Word) (s : State) : (scan ns st s).rxFail = s.rxFail := by
  induction ns generalizing s with
  | nil => simp only [scan]; split <;> rfl
  | cons n ns ih => simp only [scan]; split <;> (try split) <;> (try split) <;> simp [ih]
@[simp] theorem scan_mem (ns : List (Fin 10)) (st : Word) (s : State) : (scan ns st s).mem = s.mem := by
  induction ns generalizing s with
  | nil => simp only [scan]; split <;> rfl
  | cons n ns ih => simp only [scan]; split <;> (try split) <;> (try split) <;> simp [ih]
@[simp] theorem scan_prog (ns : List (Fin 10)) (st : Word) (s : State) : (scan ns st s).prog = s.prog := by
  induction ns generalizing s with
  | nil => simp only [scan]; split <;> rfl
  | cons n ns ih => simp only [scan]; split <;> (try split) <;> (try split) <;> simp [ih]
@[simp] theorem scan_bodies (ns : List (Fin 10)) (st : Word) (s : State) : (scan ns st s).bodies = s.bodies := by
  induction ns generalizing s with
  | nil => simp only [scan]; split <;> rfl
  | cons n ns ih => simp only [scan]; split <;> (try split) <;> (try split) <;> simp [ih]
@[simp] theorem scan_pc (ns : List (Fin 10)) (st : Word) (s : State) : (scan ns st s).pc = s.pc := by
  induction ns generalizing s with
  | nil => simp only [scan]; split <;> rfl
  | cons n ns ih => simp only [scan]; split <;> (try split) <;> (try split) <;> simp [ih]
@[simp] theorem scan_ret (ns : List (Fin 10)) (st : Word) (s : State) : (scan ns st s).ret = s.ret := by
  induction ns generalizing s with
  | nil => simp only [scan]; split <;> rfl
  | cons n ns ih => simp only [scan]; split <;> (try split) <;> (try split) <;> simp [ih]
@[simp] theorem scan_fgOp (ns : List (Fin 10)) (st : Word) (s : State) : (scan ns st s).fgOp = s.fgOp := by
  induction ns generalizing s with
  | nil => simp only [scan]; split <;> rfl
  | cons n ns ih => simp only [scan]; split <;> (try split) <;> (try split) <;> simp [ih]
@[simp] theorem scan_halted (ns : List (Fin 10)) (st : Word) (s : State) : (scan ns st s).halted = s.halted := by
  induction ns generalizing s with
  | nil => simp only [scan]; split <;> rfl
  | cons n ns ih => simp only [scan]; split <;> (try split) <;> (try split) <;> simp [ih]
@[simp] theorem scan_irqRet (ns : List (Fin 10)) (st : Word) (s : State) : (scan ns st s).irqRet = s.irqRet := by
  induction ns generalizing s with
  | nil => simp only [scan]; split <;> rfl
  | cons n ns ih => simp only [scan]; split <;> (try split) <;> (try split) <;> simp [ih]
@[simp] theorem scan_turn (ns : List (Fin 10)) (st : Word) (s : State) : (scan ns st s).turn = s.turn := by
  induction ns generalizing s with
  | nil => simp only [scan]; split <;> rfl
  | cons n ns ih => simp only [scan]; split <;> (try split) <;> (try split) <;> simp [ih]
@[simp] theorem scan_tick (ns : List (Fin 10)) (st : Word) (s : State) : (scan ns st s).tick = s.tick := by
  induction ns generalizing s with
  | nil => simp only [scan]; split <;> rfl
  | cons n ns ih => simp only [scan]; split <;> (try split) <;> (try split) <;> simp [ih]
@[simp] theorem leaveBody_regs (st : Word) (n : Fin 10) (s : State) : (leaveBody st n s).regs = s.regs := by
  unfold leaveBody; split <;> simp
@[simp] theorem leaveBody_powered (st : Word) (n : Fin 10) (s : State) : (leaveBody st n s).powered = s.powered := by
  unfold leaveBody; split <;> simp
@[simp] theorem leaveBody_mii (st : Word) (n : Fin 10) (s : State) : (leaveBody st n s).mii = s.mii := by
  unfold leaveBody; split <;> simp
@[simp] theorem leaveBody_cb (st : Word) (n : Fin 10) (s : State) : (leaveBody st n s).cb = s.cb := by
  unfold leaveBody; split <;> simp
@[simp] theorem leaveBody_rxRingInit (st : Word) (n : Fin 10) (s : State) : (leaveBody st n s).rxRingInit = s.rxRingInit := by
  unfold leaveBody; split <;> simp
@[simp] theorem leaveBody_txRingInit (st : Word) (n : Fin 10) (s : State) : (leaveBody st n s).txRingInit = s.txRingInit := by
  unfold leaveBody; split <;> simp
@[simp] theorem leaveBody_drv (st : Word) (n : Fin 10) (s : State) : (leaveBody st n s).drv = s.drv := by
  unfold leaveBody; split <;> simp
@[simp] theorem leaveBody_link (st : Word) (n : Fin 10) (s : State) : (leaveBody st n s).link = s.link := by
  unfold leaveBody; split <;> simp
@[simp] theorem leaveBody_rxMidFrame (st : Word) (n : Fin 10) (s : State) : (leaveBody st n s).rxMidFrame = s.rxMidFrame := by
  unfold leaveBody; split <;> simp
@[simp] theorem leaveBody_rxRemain (st : Word) (n : Fin 10) (s : State) : (leaveBody st n s).rxRemain = s.rxRemain := by
  unfold leaveBody; split <;> simp
@[simp] theorem leaveBody_rxDa (st : Word) (n : Fin 10) (s : State) : (leaveBody st n s).rxDa = s.rxDa := by
  unfold leaveBody; split <;> simp
@[simp] theorem leaveBody_rxErr (st : Word) (n : Fin 10) (s : State) : (leaveBody st n s).rxErr = s.rxErr := by
  unfold leaveBody; split <;> simp
@[simp] theorem leaveBody_rxFail (st : Word) (n : Fin 10) (s : State) : (leaveBody st n s).rxFail = s.rxFail := by
  unfold leaveBody; split <;> simp
@[simp] theorem leaveBody_mem (st : Word) (n : Fin 10) (s : State) : (leaveBody st n s).mem = s.mem := by
  unfold leaveBody; split <;> simp
@[simp] theorem leaveBody_prog (st : Word) (n : Fin 10) (s : State) : (leaveBody st n s).prog = s.prog := by
  unfold leaveBody; split <;> simp
@[simp] theorem leaveBody_bodies (st : Word) (n : Fin 10) (s : State) : (leaveBody st n s).bodies = s.bodies := by
  unfold leaveBody; split <;> simp
@[simp] theorem leaveBody_pc (st : Word) (n : Fin 10) (s : State) : (leaveBody st n s).pc = s.pc := by
  unfold leaveBody; split <;> simp
@[simp] theorem leaveBody_ret (st : Word) (n : Fin 10) (s : State) : (leaveBody st n s).ret = s.ret := by
  unfold leaveBody; split <;> simp
@[simp] theorem leaveBody_fgOp (st : Word) (n : Fin 10) (s : State) : (leaveBody st n s).fgOp = s.fgOp := by
  unfold leaveBody; split <;> simp
@[simp] theorem leaveBody_halted (st : Word) (n : Fin 10) (s : State) : (leaveBody st n s).halted = s.halted := by
  unfold leaveBody; split <;> simp
@[simp] theorem leaveBody_irqRet (st : Word) (n : Fin 10) (s : State) : (leaveBody st n s).irqRet = s.irqRet := by
  unfold leaveBody; split <;> simp
@[simp] theorem leaveBody_turn (st : Word) (n : Fin 10) (s : State) : (leaveBody st n s).turn = s.turn := by
  unfold leaveBody; split <;> simp
@[simp] theorem leaveBody_tick (st : Word) (n : Fin 10) (s : State) : (leaveBody st n s).tick = s.tick := by
  unfold leaveBody; split <;> simp
@[simp] theorem enterWake_regs (st : Word) (s : State) : (enterWake st s).regs = s.regs := by
  unfold enterWake; split <;> (try split) <;> simp
@[simp] theorem enterWake_powered (st : Word) (s : State) : (enterWake st s).powered = s.powered := by
  unfold enterWake; split <;> (try split) <;> simp
@[simp] theorem enterWake_mii (st : Word) (s : State) : (enterWake st s).mii = s.mii := by
  unfold enterWake; split <;> (try split) <;> simp
@[simp] theorem enterWake_cb (st : Word) (s : State) : (enterWake st s).cb = s.cb := by
  unfold enterWake; split <;> (try split) <;> simp
@[simp] theorem enterWake_rxRingInit (st : Word) (s : State) : (enterWake st s).rxRingInit = s.rxRingInit := by
  unfold enterWake; split <;> (try split) <;> simp
@[simp] theorem enterWake_txRingInit (st : Word) (s : State) : (enterWake st s).txRingInit = s.txRingInit := by
  unfold enterWake; split <;> (try split) <;> simp
@[simp] theorem enterWake_drv (st : Word) (s : State) : (enterWake st s).drv = s.drv := by
  unfold enterWake; split <;> (try split) <;> simp
@[simp] theorem enterWake_link (st : Word) (s : State) : (enterWake st s).link = s.link := by
  unfold enterWake; split <;> (try split) <;> simp
@[simp] theorem enterWake_rxMidFrame (st : Word) (s : State) : (enterWake st s).rxMidFrame = s.rxMidFrame := by
  unfold enterWake; split <;> (try split) <;> simp
@[simp] theorem enterWake_rxRemain (st : Word) (s : State) : (enterWake st s).rxRemain = s.rxRemain := by
  unfold enterWake; split <;> (try split) <;> simp
@[simp] theorem enterWake_rxDa (st : Word) (s : State) : (enterWake st s).rxDa = s.rxDa := by
  unfold enterWake; split <;> (try split) <;> simp
@[simp] theorem enterWake_rxErr (st : Word) (s : State) : (enterWake st s).rxErr = s.rxErr := by
  unfold enterWake; split <;> (try split) <;> simp
@[simp] theorem enterWake_rxFail (st : Word) (s : State) : (enterWake st s).rxFail = s.rxFail := by
  unfold enterWake; split <;> (try split) <;> simp
@[simp] theorem enterWake_mem (st : Word) (s : State) : (enterWake st s).mem = s.mem := by
  unfold enterWake; split <;> (try split) <;> simp
@[simp] theorem enterWake_prog (st : Word) (s : State) : (enterWake st s).prog = s.prog := by
  unfold enterWake; split <;> (try split) <;> simp
@[simp] theorem enterWake_bodies (st : Word) (s : State) : (enterWake st s).bodies = s.bodies := by
  unfold enterWake; split <;> (try split) <;> simp
@[simp] theorem enterWake_pc (st : Word) (s : State) : (enterWake st s).pc = s.pc := by
  unfold enterWake; split <;> (try split) <;> simp
@[simp] theorem enterWake_ret (st : Word) (s : State) : (enterWake st s).ret = s.ret := by
  unfold enterWake; split <;> (try split) <;> simp
@[simp] theorem enterWake_fgOp (st : Word) (s : State) : (enterWake st s).fgOp = s.fgOp := by
  unfold enterWake; split <;> (try split) <;> simp
@[simp] theorem enterWake_halted (st : Word) (s : State) : (enterWake st s).halted = s.halted := by
  unfold enterWake; split <;> (try split) <;> simp
@[simp] theorem enterWake_irqRet (st : Word) (s : State) : (enterWake st s).irqRet = s.irqRet := by
  unfold enterWake; split <;> (try split) <;> simp
@[simp] theorem enterWake_turn (st : Word) (s : State) : (enterWake st s).turn = s.turn := by
  unfold enterWake; split <;> (try split) <;> simp
@[simp] theorem enterWake_tick (st : Word) (s : State) : (enterWake st s).tick = s.tick := by
  unfold enterWake; split <;> (try split) <;> simp

/-! ### Moving on in a program: `irq` and its invocations, or FG's own position -/

@[simp] theorem goTo_regs (k : Nat) (s : State) : (goTo k s).regs = s.regs := by
  unfold goTo; split <;> (try split) <;> simp
@[simp] theorem goTo_powered (k : Nat) (s : State) : (goTo k s).powered = s.powered := by
  unfold goTo; split <;> (try split) <;> simp
@[simp] theorem goTo_mii (k : Nat) (s : State) : (goTo k s).mii = s.mii := by
  unfold goTo; split <;> (try split) <;> simp
@[simp] theorem goTo_cb (k : Nat) (s : State) : (goTo k s).cb = s.cb := by
  unfold goTo; split <;> (try split) <;> simp
@[simp] theorem goTo_rxRingInit (k : Nat) (s : State) : (goTo k s).rxRingInit = s.rxRingInit := by
  unfold goTo; split <;> (try split) <;> simp
@[simp] theorem goTo_txRingInit (k : Nat) (s : State) : (goTo k s).txRingInit = s.txRingInit := by
  unfold goTo; split <;> (try split) <;> simp
@[simp] theorem goTo_drv (k : Nat) (s : State) : (goTo k s).drv = s.drv := by
  unfold goTo; split <;> (try split) <;> simp
@[simp] theorem goTo_link (k : Nat) (s : State) : (goTo k s).link = s.link := by
  unfold goTo; split <;> (try split) <;> simp
@[simp] theorem goTo_rxMidFrame (k : Nat) (s : State) : (goTo k s).rxMidFrame = s.rxMidFrame := by
  unfold goTo; split <;> (try split) <;> simp
@[simp] theorem goTo_rxRemain (k : Nat) (s : State) : (goTo k s).rxRemain = s.rxRemain := by
  unfold goTo; split <;> (try split) <;> simp
@[simp] theorem goTo_rxDa (k : Nat) (s : State) : (goTo k s).rxDa = s.rxDa := by
  unfold goTo; split <;> (try split) <;> simp
@[simp] theorem goTo_rxErr (k : Nat) (s : State) : (goTo k s).rxErr = s.rxErr := by
  unfold goTo; split <;> (try split) <;> simp
@[simp] theorem goTo_rxFail (k : Nat) (s : State) : (goTo k s).rxFail = s.rxFail := by
  unfold goTo; split <;> (try split) <;> simp
@[simp] theorem goTo_mem (k : Nat) (s : State) : (goTo k s).mem = s.mem := by
  unfold goTo; split <;> (try split) <;> simp
@[simp] theorem goTo_prog (k : Nat) (s : State) : (goTo k s).prog = s.prog := by
  unfold goTo; split <;> (try split) <;> simp
@[simp] theorem goTo_bodies (k : Nat) (s : State) : (goTo k s).bodies = s.bodies := by
  unfold goTo; split <;> (try split) <;> simp
@[simp] theorem goTo_ret (k : Nat) (s : State) : (goTo k s).ret = s.ret := by
  unfold goTo; split <;> (try split) <;> simp
@[simp] theorem goTo_halted (k : Nat) (s : State) : (goTo k s).halted = s.halted := by
  unfold goTo; split <;> (try split) <;> simp
@[simp] theorem goTo_irqRet (k : Nat) (s : State) : (goTo k s).irqRet = s.irqRet := by
  unfold goTo; split <;> (try split) <;> simp
@[simp] theorem goTo_turn (k : Nat) (s : State) : (goTo k s).turn = s.turn := by
  unfold goTo; split <;> (try split) <;> simp
@[simp] theorem goTo_tick (k : Nat) (s : State) : (goTo k s).tick = s.tick := by
  unfold goTo; split <;> (try split) <;> simp
@[simp] theorem State.next_regs (s : State) : s.next.regs = s.regs := goTo_regs _ s
@[simp] theorem State.next_powered (s : State) : s.next.powered = s.powered := goTo_powered _ s
@[simp] theorem State.next_mii (s : State) : s.next.mii = s.mii := goTo_mii _ s
@[simp] theorem State.next_cb (s : State) : s.next.cb = s.cb := goTo_cb _ s
@[simp] theorem State.next_rxRingInit (s : State) : s.next.rxRingInit = s.rxRingInit := goTo_rxRingInit _ s
@[simp] theorem State.next_txRingInit (s : State) : s.next.txRingInit = s.txRingInit := goTo_txRingInit _ s
@[simp] theorem State.next_drv (s : State) : s.next.drv = s.drv := goTo_drv _ s
@[simp] theorem State.next_link (s : State) : s.next.link = s.link := goTo_link _ s
@[simp] theorem State.next_rxMidFrame (s : State) : s.next.rxMidFrame = s.rxMidFrame := goTo_rxMidFrame _ s
@[simp] theorem State.next_rxRemain (s : State) : s.next.rxRemain = s.rxRemain := goTo_rxRemain _ s
@[simp] theorem State.next_rxDa (s : State) : s.next.rxDa = s.rxDa := goTo_rxDa _ s
@[simp] theorem State.next_rxErr (s : State) : s.next.rxErr = s.rxErr := goTo_rxErr _ s
@[simp] theorem State.next_rxFail (s : State) : s.next.rxFail = s.rxFail := goTo_rxFail _ s
@[simp] theorem State.next_mem (s : State) : s.next.mem = s.mem := goTo_mem _ s
@[simp] theorem State.next_prog (s : State) : s.next.prog = s.prog := goTo_prog _ s
@[simp] theorem State.next_bodies (s : State) : s.next.bodies = s.bodies := goTo_bodies _ s
@[simp] theorem State.next_ret (s : State) : s.next.ret = s.ret := goTo_ret _ s
@[simp] theorem State.next_halted (s : State) : s.next.halted = s.halted := goTo_halted _ s
@[simp] theorem State.next_irqRet (s : State) : s.next.irqRet = s.irqRet := goTo_irqRet _ s
@[simp] theorem State.next_turn (s : State) : s.next.turn = s.turn := goTo_turn _ s
@[simp] theorem State.next_tick (s : State) : s.next.tick = s.tick := goTo_tick _ s
@[simp] theorem putRet_regs (v : Word) (s : State) : (putRet v s).regs = s.regs := by
  unfold putRet; split <;> rfl
@[simp] theorem putRet_powered (v : Word) (s : State) : (putRet v s).powered = s.powered := by
  unfold putRet; split <;> rfl
@[simp] theorem putRet_mii (v : Word) (s : State) : (putRet v s).mii = s.mii := by
  unfold putRet; split <;> rfl
@[simp] theorem putRet_cb (v : Word) (s : State) : (putRet v s).cb = s.cb := by
  unfold putRet; split <;> rfl
@[simp] theorem putRet_rxRingInit (v : Word) (s : State) : (putRet v s).rxRingInit = s.rxRingInit := by
  unfold putRet; split <;> rfl
@[simp] theorem putRet_txRingInit (v : Word) (s : State) : (putRet v s).txRingInit = s.txRingInit := by
  unfold putRet; split <;> rfl
@[simp] theorem putRet_drv (v : Word) (s : State) : (putRet v s).drv = s.drv := by
  unfold putRet; split <;> rfl
@[simp] theorem putRet_link (v : Word) (s : State) : (putRet v s).link = s.link := by
  unfold putRet; split <;> rfl
@[simp] theorem putRet_irq (v : Word) (s : State) : (putRet v s).irq = s.irq := by
  unfold putRet; split <;> rfl
@[simp] theorem putRet_rxMidFrame (v : Word) (s : State) : (putRet v s).rxMidFrame = s.rxMidFrame := by
  unfold putRet; split <;> rfl
@[simp] theorem putRet_rxRemain (v : Word) (s : State) : (putRet v s).rxRemain = s.rxRemain := by
  unfold putRet; split <;> rfl
@[simp] theorem putRet_rxDa (v : Word) (s : State) : (putRet v s).rxDa = s.rxDa := by
  unfold putRet; split <;> rfl
@[simp] theorem putRet_rxErr (v : Word) (s : State) : (putRet v s).rxErr = s.rxErr := by
  unfold putRet; split <;> rfl
@[simp] theorem putRet_rxFail (v : Word) (s : State) : (putRet v s).rxFail = s.rxFail := by
  unfold putRet; split <;> rfl
@[simp] theorem putRet_mem (v : Word) (s : State) : (putRet v s).mem = s.mem := by
  unfold putRet; split <;> rfl
@[simp] theorem putRet_prog (v : Word) (s : State) : (putRet v s).prog = s.prog := by
  unfold putRet; split <;> rfl
@[simp] theorem putRet_bodies (v : Word) (s : State) : (putRet v s).bodies = s.bodies := by
  unfold putRet; split <;> rfl
@[simp] theorem putRet_pc (v : Word) (s : State) : (putRet v s).pc = s.pc := by
  unfold putRet; split <;> rfl
@[simp] theorem putRet_fgOp (v : Word) (s : State) : (putRet v s).fgOp = s.fgOp := by
  unfold putRet; split <;> rfl
@[simp] theorem putRet_halted (v : Word) (s : State) : (putRet v s).halted = s.halted := by
  unfold putRet; split <;> rfl
@[simp] theorem putRet_hist (v : Word) (s : State) : (putRet v s).hist = s.hist := by
  unfold putRet; split <;> rfl
@[simp] theorem putRet_turn (v : Word) (s : State) : (putRet v s).turn = s.turn := by
  unfold putRet; split <;> rfl
@[simp] theorem putRet_tick (v : Word) (s : State) : (putRet v s).tick = s.tick := by
  unfold putRet; split <;> rfl
@[simp] theorem State.finish_regs (v : Word) (s : State) : (s.finish v).regs = s.regs := by
  simp [State.finish]
@[simp] theorem State.finish_powered (v : Word) (s : State) : (s.finish v).powered = s.powered := by
  simp [State.finish]
@[simp] theorem State.finish_mii (v : Word) (s : State) : (s.finish v).mii = s.mii := by
  simp [State.finish]
@[simp] theorem State.finish_cb (v : Word) (s : State) : (s.finish v).cb = s.cb := by
  simp [State.finish]
@[simp] theorem State.finish_rxRingInit (v : Word) (s : State) : (s.finish v).rxRingInit = s.rxRingInit := by
  simp [State.finish]
@[simp] theorem State.finish_txRingInit (v : Word) (s : State) : (s.finish v).txRingInit = s.txRingInit := by
  simp [State.finish]
@[simp] theorem State.finish_drv (v : Word) (s : State) : (s.finish v).drv = s.drv := by
  simp [State.finish]
@[simp] theorem State.finish_link (v : Word) (s : State) : (s.finish v).link = s.link := by
  simp [State.finish]
@[simp] theorem State.finish_rxMidFrame (v : Word) (s : State) : (s.finish v).rxMidFrame = s.rxMidFrame := by
  simp [State.finish]
@[simp] theorem State.finish_rxRemain (v : Word) (s : State) : (s.finish v).rxRemain = s.rxRemain := by
  simp [State.finish]
@[simp] theorem State.finish_rxDa (v : Word) (s : State) : (s.finish v).rxDa = s.rxDa := by
  simp [State.finish]
@[simp] theorem State.finish_rxErr (v : Word) (s : State) : (s.finish v).rxErr = s.rxErr := by
  simp [State.finish]
@[simp] theorem State.finish_rxFail (v : Word) (s : State) : (s.finish v).rxFail = s.rxFail := by
  simp [State.finish]
@[simp] theorem State.finish_mem (v : Word) (s : State) : (s.finish v).mem = s.mem := by
  simp [State.finish]
@[simp] theorem State.finish_prog (v : Word) (s : State) : (s.finish v).prog = s.prog := by
  simp [State.finish]
@[simp] theorem State.finish_bodies (v : Word) (s : State) : (s.finish v).bodies = s.bodies := by
  simp [State.finish]
@[simp] theorem State.finish_halted (v : Word) (s : State) : (s.finish v).halted = s.halted := by
  simp [State.finish]
@[simp] theorem State.finish_turn (v : Word) (s : State) : (s.finish v).turn = s.turn := by
  simp [State.finish]
@[simp] theorem State.finish_tick (v : Word) (s : State) : (s.finish v).tick = s.tick := by
  simp [State.finish]
@[simp] theorem putOp_regs (fs : List OpFrame) (s : State) : (putOp fs s).regs = s.regs := by
  unfold putOp; split <;> rfl
@[simp] theorem putOp_powered (fs : List OpFrame) (s : State) : (putOp fs s).powered = s.powered := by
  unfold putOp; split <;> rfl
@[simp] theorem putOp_mii (fs : List OpFrame) (s : State) : (putOp fs s).mii = s.mii := by
  unfold putOp; split <;> rfl
@[simp] theorem putOp_cb (fs : List OpFrame) (s : State) : (putOp fs s).cb = s.cb := by
  unfold putOp; split <;> rfl
@[simp] theorem putOp_rxRingInit (fs : List OpFrame) (s : State) : (putOp fs s).rxRingInit = s.rxRingInit := by
  unfold putOp; split <;> rfl
@[simp] theorem putOp_txRingInit (fs : List OpFrame) (s : State) : (putOp fs s).txRingInit = s.txRingInit := by
  unfold putOp; split <;> rfl
@[simp] theorem putOp_drv (fs : List OpFrame) (s : State) : (putOp fs s).drv = s.drv := by
  unfold putOp; split <;> rfl
@[simp] theorem putOp_link (fs : List OpFrame) (s : State) : (putOp fs s).link = s.link := by
  unfold putOp; split <;> rfl
@[simp] theorem putOp_rxMidFrame (fs : List OpFrame) (s : State) : (putOp fs s).rxMidFrame = s.rxMidFrame := by
  unfold putOp; split <;> rfl
@[simp] theorem putOp_rxRemain (fs : List OpFrame) (s : State) : (putOp fs s).rxRemain = s.rxRemain := by
  unfold putOp; split <;> rfl
@[simp] theorem putOp_rxDa (fs : List OpFrame) (s : State) : (putOp fs s).rxDa = s.rxDa := by
  unfold putOp; split <;> rfl
@[simp] theorem putOp_rxErr (fs : List OpFrame) (s : State) : (putOp fs s).rxErr = s.rxErr := by
  unfold putOp; split <;> rfl
@[simp] theorem putOp_rxFail (fs : List OpFrame) (s : State) : (putOp fs s).rxFail = s.rxFail := by
  unfold putOp; split <;> rfl
@[simp] theorem putOp_mem (fs : List OpFrame) (s : State) : (putOp fs s).mem = s.mem := by
  unfold putOp; split <;> rfl
@[simp] theorem putOp_prog (fs : List OpFrame) (s : State) : (putOp fs s).prog = s.prog := by
  unfold putOp; split <;> rfl
@[simp] theorem putOp_bodies (fs : List OpFrame) (s : State) : (putOp fs s).bodies = s.bodies := by
  unfold putOp; split <;> rfl
@[simp] theorem putOp_pc (fs : List OpFrame) (s : State) : (putOp fs s).pc = s.pc := by
  unfold putOp; split <;> rfl
@[simp] theorem putOp_ret (fs : List OpFrame) (s : State) : (putOp fs s).ret = s.ret := by
  unfold putOp; split <;> rfl
@[simp] theorem putOp_halted (fs : List OpFrame) (s : State) : (putOp fs s).halted = s.halted := by
  unfold putOp; split <;> rfl
@[simp] theorem putOp_irqRet (fs : List OpFrame) (s : State) : (putOp fs s).irqRet = s.irqRet := by
  unfold putOp; split <;> rfl
@[simp] theorem putOp_hist (fs : List OpFrame) (s : State) : (putOp fs s).hist = s.hist := by
  unfold putOp; split <;> rfl
@[simp] theorem putOp_turn (fs : List OpFrame) (s : State) : (putOp fs s).turn = s.turn := by
  unfold putOp; split <;> rfl
@[simp] theorem putOp_tick (fs : List OpFrame) (s : State) : (putOp fs s).tick = s.tick := by
  unfold putOp; split <;> rfl
@[simp] theorem haltAgent_regs (s : State) : (haltAgent s).regs = s.regs := by
  unfold haltAgent; split <;> simp
@[simp] theorem haltAgent_powered (s : State) : (haltAgent s).powered = s.powered := by
  unfold haltAgent; split <;> simp
@[simp] theorem haltAgent_mii (s : State) : (haltAgent s).mii = s.mii := by
  unfold haltAgent; split <;> simp
@[simp] theorem haltAgent_cb (s : State) : (haltAgent s).cb = s.cb := by
  unfold haltAgent; split <;> simp
@[simp] theorem haltAgent_rxRingInit (s : State) : (haltAgent s).rxRingInit = s.rxRingInit := by
  unfold haltAgent; split <;> simp
@[simp] theorem haltAgent_txRingInit (s : State) : (haltAgent s).txRingInit = s.txRingInit := by
  unfold haltAgent; split <;> simp
@[simp] theorem haltAgent_drv (s : State) : (haltAgent s).drv = s.drv := by
  unfold haltAgent; split <;> simp
@[simp] theorem haltAgent_link (s : State) : (haltAgent s).link = s.link := by
  unfold haltAgent; split <;> simp
@[simp] theorem haltAgent_rxMidFrame (s : State) : (haltAgent s).rxMidFrame = s.rxMidFrame := by
  unfold haltAgent; split <;> simp
@[simp] theorem haltAgent_rxRemain (s : State) : (haltAgent s).rxRemain = s.rxRemain := by
  unfold haltAgent; split <;> simp
@[simp] theorem haltAgent_rxDa (s : State) : (haltAgent s).rxDa = s.rxDa := by
  unfold haltAgent; split <;> simp
@[simp] theorem haltAgent_rxErr (s : State) : (haltAgent s).rxErr = s.rxErr := by
  unfold haltAgent; split <;> simp
@[simp] theorem haltAgent_rxFail (s : State) : (haltAgent s).rxFail = s.rxFail := by
  unfold haltAgent; split <;> simp
@[simp] theorem haltAgent_mem (s : State) : (haltAgent s).mem = s.mem := by
  unfold haltAgent; split <;> simp
@[simp] theorem haltAgent_prog (s : State) : (haltAgent s).prog = s.prog := by
  unfold haltAgent; split <;> simp
@[simp] theorem haltAgent_bodies (s : State) : (haltAgent s).bodies = s.bodies := by
  unfold haltAgent; split <;> simp
@[simp] theorem haltAgent_pc (s : State) : (haltAgent s).pc = s.pc := by
  unfold haltAgent; split <;> simp
@[simp] theorem haltAgent_ret (s : State) : (haltAgent s).ret = s.ret := by
  unfold haltAgent; split <;> simp
@[simp] theorem haltAgent_irqRet (s : State) : (haltAgent s).irqRet = s.irqRet := by
  unfold haltAgent; split <;> simp
@[simp] theorem haltAgent_turn (s : State) : (haltAgent s).turn = s.turn := by
  unfold haltAgent; split <;> simp
@[simp] theorem haltAgent_tick (s : State) : (haltAgent s).tick = s.tick := by
  unfold haltAgent; split <;> simp

end Sys2Proof.Machine
end

