-- ==== Sys2Proof/Laws/Access.lean ====
section
/-!
SUPPORT. Everything the shared operations can do, said once: the bus transactions, the host memory accesses, the internal moves of
an operation, and one micro-step.  Later proofs cite these and do not unfold the operations.
-/

namespace Sys2Proof.Machine

/-- If `busRead` answers, the block is powered, the register can be read, and only its event is added. -/
theorem busRead_ok {r : Reg} {s t : State} {v : Word} (h : busRead r s = .ok (v, t)) :
    s.powered = true ∧ regWriteOnly r = false ∧ v = readReg r s ∧ t = readLogged r v s := by
  unfold busRead at h
  split at h
  · cases h
  · split at h
    · cases h
    · cases h
      exact ⟨by simpa using ‹¬s.powered = false›, by simpa using ‹¬regWriteOnly r = true›, rfl, rfl⟩

/-- A powered block answers a read of any register that is not write-only. -/
theorem busRead_eq {r : Reg} {s : State} (hp : s.powered = true) (hr : regWriteOnly r = false) :
    busRead r s = .ok (readReg r s, readLogged r (readReg r s) s) := by
  simp [busRead, hp, hr, readLogged]

/-- If `busWrite` answers, the block is powered, the register can be written, its checks passed, and the state is the write's
effect with its event. -/
theorem busWrite_ok {r : Reg} {v : Word} {s t : State} (h : busWrite r v s = .ok t) :
    s.powered = true ∧ regReadOnly r = false ∧ writeCheck r v s = none ∧
      t = (writeEffect r v s).log (.bus s.agent r.offset .write v) := by
  unfold busWrite at h
  split at h
  · cases h
  · split at h
    · cases h
    · split at h
      · cases h
      · cases h
        exact ⟨by simpa using ‹¬s.powered = false›, by simpa using ‹¬regReadOnly r = true›, ‹_›, rfl⟩

/-- A powered block answers a write that passes the register's checks. -/
theorem busWrite_eq {r : Reg} {v : Word} {s : State} (hp : s.powered = true) (hr : regReadOnly r = false)
    (hc : writeCheck r v s = none) :
    busWrite r v s = .ok ((writeEffect r v s).log (.bus s.agent r.offset .write v)) := by
  simp [busWrite, hp, hr, hc]

/-- If `hostRead` answers, the address passed its checks and only the access's event is added. -/
theorem hostRead_ok {a : Nat} {s t : State} {v : Word} (h : hostRead a s = .ok (v, t)) :
    memCheck a = none ∧ v = hostValue s a ∧ t = s.log (.mem s.agent a 4 .read v) := by
  unfold hostRead at h
  split at h
  · cases h
  · cases h; exact ⟨‹_›, rfl, rfl⟩

/-- If `hostWrite` answers, the address passed its checks, the slot is not the hardware's, and the word is written. -/
theorem hostWrite_ok {a : Nat} {v : Word} {s t : State} (h : hostWrite a v s = .ok t) :
    memCheck a = none ∧ hwOwned s a = false ∧
      t = { s with mem := Memory.writeWord a v s.mem }.log (.mem s.agent a 4 .write v) := by
  unfold hostWrite at h
  split at h
  · cases h
  · split at h
    · cases h
    · cases h; exact ⟨‹_›, by simpa using ‹¬hwOwned s a = true›, rfl⟩

/-- What one micro-step can do to the block, before the internal moves that follow it. -/
inductive Access (s : State) : State → Prop where
  | none : Access s s
  | read (r : Reg) (v : Word) (t : State) : busRead r s = .ok (v, t) → Access s t
  | write (r : Reg) (v : Word) (t : State) : busWrite r v s = .ok t → Access s t
  | memRead (a : Nat) (v : Word) (t : State) : hostRead a s = .ok (v, t) → Access s t
  | memWrite (a : Nat) (v : Word) (t : State) : hostWrite a v s = .ok t → Access s t
  | event (e : Event) : Access s (s.log e)
  | powerOff : Access s { s with powered := false, mii := .idle }
  | powerOn : s.irq = .idle → s.drv = .uninitialized → Access s { s with powered := true, drv := .resetting }
  | setCb (c : Vector (Option CallbackId) 10) : s.irq = .idle → Access s { s with cb := c }

/-- What the internal moves of an operation change: the ring marks, which only become 1, `drv` and `link`. -/
def Marks (s t : State) : Prop :=
  (s.rxRingInit = true → t.rxRingInit = true) ∧ (s.txRingInit = true → t.txRingInit = true) ∧
    t = { s with rxRingInit := t.rxRingInit, txRingInit := t.txRingInit, drv := t.drv, link := t.link }

theorem Marks.refl (s : State) : Marks s s := ⟨id, id, rfl⟩

theorem Marks.trans {s t u : State} (h : Marks s t) (h' : Marks t u) : Marks s u := by
  refine ⟨fun x => h'.1 (h.1 x), fun x => h'.2.1 (h.2.1 x), ?_⟩
  have h1 := h.2.2
  have h2 := h'.2.2
  rw [h2, h1]

theorem Marks.after {s t u : State} (h' : Marks t u) (h : Marks s t) : Marks s u := h.trans h'

/-- `resume` changes only the marks, `drv` and `link`. -/
theorem resume_marks (v : Word) (fs : List OpFrame) (s : State) : Marks s (resume v fs s).1 := by
  induction fs generalizing v s with
  | nil => exact Marks.refl s
  | cons f fs ih =>
    cases f <;> simp only [resume]
    case rxDone => exact Marks.after (ih _ _) ⟨fun _ => rfl, id, rfl⟩
    case txDone => exact Marks.after (ih _ _) ⟨id, fun _ => rfl, rfl⟩
    case linkUp => exact Marks.after (ih _ _) ⟨id, id, rfl⟩
    case initRing => exact Marks.after (ih _ _) ⟨id, id, rfl⟩
    case initEnd => exact Marks.after (ih _ _) ⟨id, id, rfl⟩
    case deinitDone => exact Marks.after (ih _ _) ⟨id, id, rfl⟩
    case initPoll mac mode left =>
      split
      · exact ⟨id, id, rfl⟩
      · cases left
        · exact Marks.after (ih _ _) ⟨id, id, rfl⟩
        · exact Marks.refl s
    all_goals first
      | exact Marks.refl s
      | exact ih _ _
      | (split
         · first | exact Marks.refl s | exact ih _ _ | exact Marks.after (ih _ _) ⟨id, id, rfl⟩
         · first
            | exact Marks.refl s
            | exact ih _ _
            | exact ⟨id, id, rfl⟩
            | (split
               · exact ⟨id, id, rfl⟩
               · first | exact ⟨id, id, rfl⟩ | exact Marks.after (ih _ _) ⟨id, id, rfl⟩))

theorem seqRest_marks (ms : List Micro) (fs : List OpFrame) (s : State) : Marks s (seqRest ms fs s).1 := by
  unfold seqRest
  split
  · exact resume_marks _ _ _
  · exact Marks.refl s

theorem doWrite_ok {r : Reg} {v : Word} {s t : State} {k : State → State × Cont} {c : Cont}
    (h : doWrite r v s k = .ok (t, c)) : ∃ u, busWrite r v s = .ok u ∧ k u = (t, c) := by
  unfold doWrite at h
  split at h
  · cases h
  · exact ⟨_, ‹_›, by simpa using h⟩

/-- A first step of a PHY access that answers was no overlap, and is the bus write of MADR. -/
theorem doAddress_ok {reg : MiiAddr} {s t : State} {k : State → State × Cont} {c : Cont}
    (h : doAddress reg s k = .ok (t, c)) : s.phySplit = false ∧ ∃ u, busWrite .madr (madrValue reg) s = .ok u ∧ k u = (t, c) := by
  unfold doAddress at h
  split at h
  · cases h
  · rename_i hs; exact ⟨by simpa using hs, doWrite_ok h⟩

theorem doRead_ok {r : Reg} {s : State} {k : Word → State → Except Fault (State × Cont)} {x : State × Cont}
    (h : doRead r s k = .ok x) : ∃ v u, busRead r s = .ok (v, u) ∧ k v u = .ok x := by
  unfold doRead at h
  split at h
  · cases h
  · exact ⟨_, _, ‹_›, h⟩

theorem doMemWrite_ok {a : Nat} {v : Word} {s t : State} {k : State → State × Cont} {c : Cont}
    (h : doMemWrite a v s k = .ok (t, c)) : ∃ u, hostWrite a v s = .ok u ∧ k u = (t, c) := by
  unfold doMemWrite at h
  split at h
  · cases h
  · exact ⟨_, ‹_›, by simpa using h⟩

theorem doMemRead_ok {a : Nat} {s t : State} {k : Word → State → State × Cont} {c : Cont}
    (h : doMemRead a s k = .ok (t, c)) : ∃ v u, hostRead a s = .ok (v, u) ∧ k v u = (t, c) := by
  unfold doMemRead at h
  split at h
  · cases h
  · exact ⟨_, _, ‹_›, by simpa using h⟩

/-- One micro-step is one access, then internal moves. -/
theorem microStep_ok {fs : List OpFrame} {s t : State} {c : Cont} (h : microStep fs s = .ok (t, c)) :
    ∃ u, Access s u ∧ Marks u t := by
  have fin : ∀ {x : State × Cont} {u : State}, x = (t, c) → Marks u x.1 → Marks u t := by
    rintro x u rfl hm; exact hm
  cases fs with
  | nil => simp only [microStep] at h; cases h; exact ⟨s, .none, Marks.refl s⟩
  | cons f fs =>
    cases f with
    | seq ms =>
      cases ms with
      | nil =>
        simp only [microStep, Except.ok.injEq] at h
        exact ⟨s, .none, fin h (resume_marks _ _ _)⟩
      | cons m ms =>
        cases m with
        | write r v =>
          obtain ⟨u, hu, hk⟩ := doWrite_ok h
          exact ⟨u, .write r v u hu, fin hk (seqRest_marks _ _ _)⟩
        | setBits r m =>
          obtain ⟨v, u, hu, hk⟩ := doRead_ok h
          cases hk; exact ⟨_, .read r v _ hu, Marks.refl _⟩
        | clrBits r m =>
          obtain ⟨v, u, hu, hk⟩ := doRead_ok h
          cases hk; exact ⟨_, .read r v _ hu, Marks.refl _⟩
        | memWrite a v =>
          obtain ⟨u, hu, hk⟩ := doMemWrite_ok h
          exact ⟨u, .memWrite a v u hu, fin hk (seqRest_marks _ _ _)⟩
        | delay =>
          simp only [microStep, seqStep, Except.ok.injEq] at h
          exact ⟨s, .none, fin h (seqRest_marks _ _ _)⟩
        | powerOff =>
          simp only [microStep, seqStep, Except.ok.injEq] at h
          exact ⟨_, .powerOff, fin h (seqRest_marks _ _ _)⟩
    | initRx | initTx =>
      obtain ⟨v, u, hu, hk⟩ := doRead_ok h
      split at hk
      · cases hk
      · cases hk; exact ⟨_, .read _ v _ hu, Marks.refl _⟩
    | txPkt | txRead | rxRead =>
      obtain ⟨v, u, hu, hk⟩ := doMemRead_ok h
      cases hk; exact ⟨_, .memRead _ v _ hu, Marks.refl _⟩
    | rxPkt =>
      obtain ⟨v, u, hu, hk⟩ := doMemRead_ok h
      refine ⟨_, .memRead _ v _ hu, fin hk ?_⟩
      unfold rxNext; split
      · exact Marks.refl _
      · exact resume_marks _ _ _
    | txWrite =>
      obtain ⟨u, hu, hk⟩ := doMemWrite_ok h
      cases hk; exact ⟨_, .memWrite _ _ _ hu, Marks.refl _⟩
    | txCtl =>
      obtain ⟨u, hu, hk⟩ := doMemWrite_ok h
      exact ⟨_, .memWrite _ _ _ hu, fin hk (resume_marks _ _ _)⟩
    | rxWrite =>
      obtain ⟨u, hu, hk⟩ := doMemWrite_ok h
      refine ⟨_, .memWrite _ _ _ hu, fin hk ?_⟩
      unfold rxNext; split
      · exact Marks.refl _
      · exact resume_marks _ _ _
    | chkRx | chkTx | rpData =>
      obtain ⟨v, u, hu, hk⟩ := doRead_ok h
      simp only [Except.ok.injEq] at hk
      exact ⟨_, .read _ v _ hu, fin hk (resume_marks _ _ _)⟩
    | wpMadr | rpMadr =>
      obtain ⟨_, u, hu, hk⟩ := doAddress_ok h
      cases hk; exact ⟨_, .write _ _ _ hu, Marks.refl _⟩
    | wpMwtd | rpMcmd | rpClear =>
      obtain ⟨u, hu, hk⟩ := doWrite_ok h
      cases hk; exact ⟨_, .write _ _ _ hu, Marks.refl _⟩
    | wpPoll left =>
      obtain ⟨v, u, hu, hk⟩ := doRead_ok h
      refine ⟨u, .read _ v _ hu, ?_⟩
      split at hk
      · simp only [Except.ok.injEq] at hk; exact fin hk (resume_marks _ _ _)
      · cases left
        · simp only [Except.ok.injEq] at hk; exact fin hk (resume_marks _ _ _)
        · cases hk; exact Marks.refl _
    | rpPoll left =>
      obtain ⟨v, u, hu, hk⟩ := doRead_ok h
      refine ⟨u, .read _ v _ hu, ?_⟩
      split at hk
      · cases hk; exact Marks.refl _
      · cases left
        · simp only [Except.ok.injEq] at hk; exact fin hk (resume_marks _ _ _)
        · cases hk; exact Marks.refl _
    | updDelay left =>
      cases left
      · simp only [microStep, Except.ok.injEq] at h
        refine ⟨_, .event (.delayMs Config.linkDelayMs), fin h (Marks.after (resume_marks _ _ _) ⟨id, id, rfl⟩)⟩
      · simp only [microStep] at h; cases h
        exact ⟨_, .event _, Marks.refl _⟩
    | _ =>
      simp only [microStep, Except.ok.injEq] at h
      exact ⟨s, .none, fin h (resume_marks _ _ _)⟩

end Sys2Proof.Machine
end

