-- ==== Sys2Proof/Laws/Bus.lean ====
section
/-!
SUPPORT. What a BUS command answers, in the terms of Safety.lean (spec/40_bus.md R200 to R232), and how the commands' lines decode.
-/

namespace Sys2Proof

/-! ### Lines -/

/-- A word given as a `u32` argument is read back. -/
theorem u32_toNat (v : Word) : u32? v.toNat = some v := by
  unfold u32?; rw [if_pos v.isLt]; simp

/-- The line of an operation decodes as its argument record says. -/
theorem decodeLine_op (o : Op) (args : List Arg) :
    decodeLine ⟨opWord o.code, args⟩ = (opInstr o args).elim .illegal .instr := by
  have h : decodeWord (opWord o.code) = .op o := by cases o <;> decide
  unfold decodeLine
  simp only [h]
  cases opInstr o args <;> rfl

/-- The BUS-R line of an in-scope register. -/
theorem decodeLine_read (r : Reg) : decodeLine ⟨busWord .read r.offset, []⟩ = .instr (rdInstr r) := by cases r <;> rfl

/-- The BUS-W line of an in-scope register. -/
theorem decodeLine_write (r : Reg) (v : Word) :
    decodeLine ⟨busWord .write r.offset, [.num v.toNat]⟩ = .instr (wrInstr r v) := by
  have h1 : decodeWord (busWord .write r.offset) = .bus .write r.offset := by cases r <;> decide
  have h2 : regAt r.offset = some r := by cases r <;> decide
  simp [decodeLine, h1, h2, u32_toNat]

end Sys2Proof

namespace Sys2Proof.Machine

/-! ### The commands -/

theorem exec_rdInstr (r : Reg) (s : State) : exec (rdInstr r) s = answer (busRead r s) := by cases r <;> rfl

theorem exec_wrInstr (r : Reg) (v : Word) (s : State) : exec (wrInstr r v) s = answerKeep (busWrite r v s) := by
  cases r <;> rfl

/-- A read of a readable register of a powered block. -/
theorem exec_rd_next {r : Reg} {s : State} (h : s.powered = true) (hr : regWriteOnly r = false) :
    exec (rdInstr r) s = .next (readDone r (readReg r s) s) := by
  rw [exec_rdInstr, busRead_eq h hr]; rfl

/-- A write that passes the register's checks. -/
theorem exec_wr_next {r : Reg} {v : Word} {s : State} (h : s.powered = true) (hr : regReadOnly r = false)
    (hc : writeCheck r v s = none) :
    exec (wrInstr r v) s = .next ((writeEffect r v s).log (.bus s.agent r.offset .write v)).next := by
  rw [exec_wrInstr, busWrite_eq h hr hc]; rfl

/-- Outside MWTD, MCMD and Command a write changes only the registers. -/
theorem writeEffect_plain {r : Reg} (v : Word) (s : State) (h1 : r ≠ .mwtd) (h2 : r ≠ .mcmd) (h3 : r ≠ .command) :
    writeEffect r v s = { s with regs := writeRegs r v s.regs } := by
  cases r <;> first | rfl | contradiction

/-- A write of a register without a further effect. -/
theorem exec_wr_done {r : Reg} {v : Word} {s : State} (h : s.powered = true) (hr : regReadOnly r = false)
    (hc : writeCheck r v s = none) (h1 : r ≠ .mwtd) (h2 : r ≠ .mcmd) (h3 : r ≠ .command) :
    exec (wrInstr r v) s = .next (writeDone r v (writeRegs r v s.regs) s) := by
  rw [exec_wr_next h hr hc, writeEffect_plain v s h1 h2 h3]; rfl

/-- A write that fails one of the register's checks. -/
theorem exec_wr_fault {r : Reg} {v : Word} {s : State} {f : FaultSite → Fault} (h : s.powered = true)
    (hr : regReadOnly r = false) (hc : writeCheck r v s = some f) :
    exec (wrInstr r v) s = .fault (f (s.site (some r.offset.toNat))) := by
  rw [exec_wrInstr, busWrite]; simp [h, hr, hc, answerKeep]

/-! ### The arithmetic of the checks -/

theorem Mii.busy_of_idle {s : State} (h : s.mii = .idle) : s.mii.busy = false := by rw [h]; rfl

theorem Mii.busy_of_ne {s : State} (h : s.mii ≠ .idle) : s.mii.busy = true := by
  cases hm : s.mii <;> first | rfl | exact absurd hm h

theorem idx_eq_mod (w : Word) : idx w = w.toNat % 65536 := by simp [idx]

theorem idx_lt (w : Word) : idx w < 65536 := (w.extractLsb' 0 16).isLt

/-- `subMod` is the remainder of the integer difference (R9). -/
theorem subMod_int (a b n : Nat) (h : 0 < n) : (subMod a b n : Int) = ((a : Int) - b) % n := by
  unfold subMod
  have hb : b % n < n := Nat.mod_lt _ h
  rw [Int.natCast_emod, Int.natCast_add, Int.ofNat_sub (Nat.le_of_lt hb), Int.natCast_emod]
  have hd := Int.emod_add_mul_ediv (b : Int) n
  rw [show (a : Int) + (n - (b : Int) % n) = (a - b) + n * (1 + (b : Int) / n) by linarith, Int.add_mul_emod_self_left]

/-- The bits of a flag placed at bit `i`. -/
theorem bitIf_getLsbD (x : Bool) (i b : Nat) (hi : i < 32) : (bitIf x i).getLsbD b = (decide (b = i) && x) := by
  cases x
  · simp [bitIf]
  · simp only [bitIf, bitMask, if_true, Bool.and_true]
    rw [BitVec.getLsbD_shiftLeft]
    by_cases h : b = i
    · subst h; simp [hi]
    · simp [h]; intro h1 h2; omega

end Sys2Proof.Machine
end

