-- ==== Sys2Proof/Laws/Engine.lean ====
section
/-!
SUPPORT. Runs of one operation, step by step.  Where the running context stands in it (`putOp`) is apart from what a micro-step does
to the block (`microStep`): `aloneRun_step` and `promptRun_step` take one micro-step of a run on the state without its position,
`aloneRun_end` and `promptRun_end` the last one.
-/

namespace Sys2Proof.Machine

/-! ### The position of the running context -/

theorem inProgram_cases {s : State} (h : s.inProgram) :
    s.irq = .idle ∨ ∃ st n id pc op, s.irq = .running st (.body n id pc op) := by
  unfold State.inProgram at h
  split at h
  · exact Or.inl ‹_›
  · exact Or.inr ⟨_, _, _, _, _, ‹_›⟩
  · exact h.elim

/-- Being in a program depends on `irq` alone. -/
theorem inProgram_of_irq {s t : State} (h : s.inProgram) (e : t.irq = s.irq) : t.inProgram := by
  unfold State.inProgram at *; rw [e]; exact h

theorem curOp_putOp {s : State} (h : s.inProgram) (fs : List OpFrame) : curOp (putOp fs s) = fs := by
  rcases inProgram_cases h with hi | ⟨st, n, id, pc, op, hi⟩ <;> simp [curOp, putOp, hi, State.setIrq]

theorem putOp_putOp {s : State} (h : s.inProgram) (fs gs : List OpFrame) : putOp gs (putOp fs s) = putOp gs s := by
  rcases inProgram_cases h with hi | ⟨st, n, id, pc, op, hi⟩ <;> simp [putOp, hi, State.setIrq]

theorem inProgram_putOp {s : State} (h : s.inProgram) (fs : List OpFrame) : (putOp fs s).inProgram := by
  rcases inProgram_cases h with hi | ⟨st, n, id, pc, op, hi⟩ <;> simp [putOp, hi, State.setIrq, State.inProgram]

theorem agent_putOp (fs : List OpFrame) (s : State) : (putOp fs s).agent = s.agent := by
  unfold putOp; split <;> simp_all [State.agent, State.setIrq]

theorem passTurn_putOp (fs : List OpFrame) (s : State) : passTurn (putOp fs s) = putOp fs (passTurn s) := by
  cases hi : s.irq with
  | idle => simp [putOp, hi, passTurn]
  | running st pos => cases pos <;> simp [putOp, hi, passTurn, State.setIrq]

theorem miiStep_putOp (fs : List OpFrame) (s : State) : miiStep (putOp fs s) = putOp fs (miiStep s) := by
  cases hi : s.irq with
  | idle =>
    unfold miiStep putOp
    simp only [hi]
    cases hp : s.powered <;> cases hm : s.mii <;> simp [hi, hp, hm, State.log]
  | running st pos =>
    unfold miiStep putOp
    cases pos <;> simp only [hi, State.setIrq] <;> cases hp : s.powered <;> cases hm : s.mii <;>
      simp [hi, hp, hm, State.log]

/-- The dispatcher's choice does not look at the position it leaves. -/
theorem scan_irq (ns : List (Fin 10)) (st : Word) (s : State) (q : Irq) : scan ns st { s with irq := q } = scan ns st s := by
  induction ns generalizing s with
  | nil => simp only [scan, State.setIrq]
  | cons n ns ih =>
    simp only [scan]
    by_cases hb : st.getLsbD (bitOf n) = true
    · simp only [hb, if_true]
      cases hc : s.cb[n] with
      | none => exact ih s
      | some id =>
        have hl : State.log (.invoke n id) { s with irq := q } = { s.log (.invoke n id) with irq := q } := rfl
        by_cases he : bodyOf s id = []
        · have he' : bodyOf { s with irq := q } id = [] := he
          simp only [he, he', if_true]
          rw [hl]; exact ih _
        · have he' : ¬bodyOf { s with irq := q } id = [] := he
          simp only [he, he', if_false]
          rfl
    · simp only [hb]
      exact ih s

/-- The end of a command does not look at the operation that ends. -/
theorem finish_putOp {s : State} (h : s.inProgram) (fs : List OpFrame) (v : Word) :
    (putOp fs s).finish v = s.finish v := by
  rcases inProgram_cases h with hi | ⟨st, n, id, pc, op, hi⟩
  · simp [putOp, hi, State.finish, putRet, State.next, goTo, curPc]
  · simp only [putOp, hi, State.setIrq, State.finish, putRet, State.next, goTo, curPc, bodyOf]
    split
    · rfl
    · unfold leaveBody
      split
      · rfl
      · have hs := scan_irq (batchOrdinals.filter (fun k => n < k)) st { s with irqRet := v } (.running st (.body n id pc fs))
        simpa [hi] using hs

/-! ### A micro-step does not look at the position -/

/-- The state at another position of the same context. -/
def atPos (q : Irq) (o : List OpFrame) (s : State) : State := { s with irq := q, fgOp := o }

theorem putOp_eq_atPos (fs : List OpFrame) (s : State) : ∃ q o, putOp fs s = atPos q o s ∧ (q = .idle ↔ s.irq = .idle) := by
  unfold putOp
  split
  · exact ⟨s.irq, fs, rfl, Iff.rfl⟩
  · refine ⟨_, s.fgOp, rfl, ?_⟩; simp_all
  · exact ⟨s.irq, s.fgOp, rfl, Iff.rfl⟩

theorem agent_atPos {q : Irq} {s : State} (o : List OpFrame) (h : q = .idle ↔ s.irq = .idle) :
    (atPos q o s).agent = s.agent := by
  cases hi : s.irq <;> cases q <;> simp_all [State.agent, atPos]

theorem busRead_atPos {q : Irq} {s t : State} {r : Reg} {v : Word} (o : List OpFrame) (hq : q = .idle ↔ s.irq = .idle)
    (h : busRead r s = .ok (v, t)) : busRead r (atPos q o s) = .ok (v, atPos q o t) ∧ t.irq = s.irq := by
  obtain ⟨h1, h2, h3, h4⟩ := busRead_ok h
  refine ⟨?_, by rw [h4]; rfl⟩
  rw [busRead_eq (s := atPos q o s) h1 h2, h4, h3]
  simp only [readLogged, agent_atPos o hq]
  have : readReg r (atPos q o s) = readReg r s := by cases r <;> rfl
  rw [this]; rfl

theorem busWrite_atPos {q : Irq} {s t : State} {r : Reg} {v : Word} (o : List OpFrame) (hq : q = .idle ↔ s.irq = .idle)
    (h : busWrite r v s = .ok t) : busWrite r v (atPos q o s) = .ok (atPos q o t) ∧ t.irq = s.irq := by
  obtain ⟨h1, h2, h3, h4⟩ := busWrite_ok h
  refine ⟨?_, by rw [h4]; rfl⟩
  have : writeCheck r v (atPos q o s) = none := by rw [← h3]; cases r <;> rfl
  rw [busWrite_eq (s := atPos q o s) h1 h2 this, h4]
  simp only [agent_atPos o hq]
  have : writeEffect r v (atPos q o s) = atPos q o (writeEffect r v s) := by cases r <;> rfl
  rw [this]; rfl

/-- FG's own PHY accesses split nothing. -/
theorem phySplit_fg {s : State} (h : s.irq = .idle) : s.phySplit = false := by simp [State.phySplit, State.agent, h]

theorem phySplit_iff {s : State} : s.phySplit = true ↔ s.powered = true ∧ s.irq ≠ .idle ∧
    ∃ fs, (∃ v, s.fgOp = .wpMwtd v :: fs) ∨ s.fgOp = .rpMcmd :: fs := by
  have hb : betweenPhyWrites s.fgOp = true ↔ ∃ fs, (∃ v, s.fgOp = .wpMwtd v :: fs) ∨ s.fgOp = .rpMcmd :: fs := by
    constructor
    · intro h
      unfold betweenPhyWrites at h
      split at h
      · exact ⟨_, Or.inl ⟨_, ‹_›⟩⟩
      · exact ⟨_, Or.inr ‹_›⟩
      · cases h
    · rintro ⟨fs, ⟨v, h⟩ | h⟩ <;> rw [h] <;> rfl
  rw [State.phySplit, Bool.and_eq_true, Bool.and_eq_true, hb, decide_eq_true_eq, and_assoc]
  cases hi : s.irq <;> simp [State.agent, hi]

theorem phySplit_atPos {q : Irq} {s : State} {o : List OpFrame} (hq : q = .idle ↔ s.irq = .idle)
    (ho : s.irq ≠ .idle → o = s.fgOp) : (atPos q o s).phySplit = s.phySplit := by
  by_cases hi : s.irq = .idle
  · rw [phySplit_fg hi, phySplit_fg (hq.2 hi)]
  · cases ho hi; rw [State.phySplit, agent_atPos _ hq]; rfl

@[simp] theorem phySplit_log (e : Event) (s : State) : (s.log e).phySplit = s.phySplit := rfl

@[simp] theorem phySplit_writeLogged (r : Reg) (v : Word) (regs : Regs) (s : State) :
    (writeLogged r v regs s).phySplit = s.phySplit := rfl

@[simp] theorem phySplit_readLogged (r : Reg) (v : Word) (s : State) : (readLogged r v s).phySplit = s.phySplit := rfl

@[simp] theorem phySplit_passTurn (s : State) : (passTurn s).phySplit = s.phySplit := rfl

@[simp] theorem phySplit_putOp (fs : List OpFrame) (s : State) : (putOp fs s).phySplit = s.phySplit := by
  unfold putOp
  split
  · rename_i h; rw [phySplit_fg h, phySplit_fg (by exact h)]
  · rename_i h; simp [State.phySplit, State.agent, State.setIrq, h]
  · rfl

@[simp] theorem phySplit_miiStep (s : State) : (miiStep s).phySplit = s.phySplit := by
  unfold miiStep
  split
  · rfl
  · split <;> rfl

theorem hostRead_atPos {q : Irq} {s t : State} {a : Nat} {v : Word} (o : List OpFrame) (hq : q = .idle ↔ s.irq = .idle)
    (h : hostRead a s = .ok (v, t)) : hostRead a (atPos q o s) = .ok (v, atPos q o t) ∧ t.irq = s.irq := by
  obtain ⟨h1, h2, h3⟩ := hostRead_ok h
  refine ⟨?_, by rw [h3]; rfl⟩
  subst h2 h3
  simp only [hostRead, h1, agent_atPos o hq]
  rfl

theorem hostWrite_atPos {q : Irq} {s t : State} {a : Nat} {v : Word} (o : List OpFrame) (hq : q = .idle ↔ s.irq = .idle)
    (h : hostWrite a v s = .ok t) : hostWrite a v (atPos q o s) = .ok (atPos q o t) ∧ t.irq = s.irq := by
  obtain ⟨h1, h2, h3⟩ := hostWrite_ok h
  refine ⟨?_, by rw [h3]; rfl⟩
  subst h3
  have : hwOwned (atPos q o s) a = false := h2
  simp only [hostWrite, h1, this, agent_atPos o hq]
  rfl

theorem resume_atPos (v : Word) (fs : List OpFrame) (q : Irq) (o : List OpFrame) (s : State) :
    resume v fs (atPos q o s) = (atPos q o (resume v fs s).1, (resume v fs s).2) := by
  induction fs generalizing v s with
  | nil => rfl
  | cons f fs ih =>
    cases f <;> simp only [resume]
    case rxDone => exact ih 0 { s with rxRingInit := true }
    case txDone => exact ih 0 { s with txRingInit := true }
    case linkUp => exact ih _ { s with link := .up }
    case initRing => exact ih _ { s with drv := .ringInit }
    case initEnd => exact ih _ { s with drv := .enabled }
    case deinitDone => exact ih _ { s with drv := .uninitialized, link := .unknown }
    case detect2 => exact ih _ s
    case checkStatus => exact ih _ s
    case setMode => split; exacts [ih _ s, rfl]
    case updLink => split <;> rfl
    case updSpeed => split; exacts [ih _ s, rfl]
    case initWritten => split; exacts [ih _ { s with drv := .phyResetTimeout }, rfl]
    case initPoll mac mode left =>
      split
      · rfl
      · cases left
        · exact ih _ { s with drv := .phyResetTimeout }
        · rfl
    case initDetected mac mode =>
      split
      · exact ih _ { s with drv := .phyDetectFailed }
      · cases bmcrValue mode
        · exact ih _ { s with drv := .phyConfigFailed }
        · rfl
    case initMode => split; exacts [ih _ { s with drv := .phyConfigFailed }, rfl]

theorem resume_irq (v : Word) (fs : List OpFrame) (s : State) : (resume v fs s).1.irq = s.irq := by
  rw [(resume_marks v fs s).2.2]

theorem seqRest_atPos (ms : List Micro) (fs : List OpFrame) (q : Irq) (o : List OpFrame) (s : State) :
    seqRest ms fs (atPos q o s) = (atPos q o (seqRest ms fs s).1, (seqRest ms fs s).2) := by
  cases ms
  · exact resume_atPos _ _ _ _ _
  · rfl

theorem rxNext_atPos (pkt dst len j : Nat) (fs : List OpFrame) (q : Irq) (o : List OpFrame) (s : State) :
    rxNext pkt dst len j fs (atPos q o s) = (atPos q o (rxNext pkt dst len j fs s).1, (rxNext pkt dst len j fs s).2) := by
  unfold rxNext; split
  · rfl
  · exact resume_atPos _ _ _ _ _

/-- A micro-step that answers does the same at every position of the same context. -/
theorem microStep_atPos {fs : List OpFrame} {s t : State} {c : Cont} {q : Irq} (o : List OpFrame)
    (hq : q = .idle ↔ s.irq = .idle) (ho : s.irq ≠ .idle → o = s.fgOp) (h : microStep fs s = .ok (t, c)) :
    microStep fs (atPos q o s) = .ok (atPos q o t, c) := by
  cases fs with
  | nil => simp only [microStep] at h ⊢; cases h; rfl
  | cons f fs =>
    cases f with
    | seq ms =>
      cases ms with
      | nil =>
        simp only [microStep, Except.ok.injEq] at h ⊢
        rw [resume_atPos, h]
      | cons m ms =>
        cases m with
        | write r v =>
          obtain ⟨u, hu, hk⟩ := doWrite_ok h
          simp only [microStep, seqStep, doWrite, (busWrite_atPos o hq hu).1, seqRest_atPos, hk]
        | setBits r m =>
          obtain ⟨v, u, hu, hk⟩ := doRead_ok h
          cases hk; simp only [microStep, seqStep, doRead, (busRead_atPos o hq hu).1]
        | clrBits r m =>
          obtain ⟨v, u, hu, hk⟩ := doRead_ok h
          cases hk; simp only [microStep, seqStep, doRead, (busRead_atPos o hq hu).1]
        | memWrite a v =>
          obtain ⟨u, hu, hk⟩ := doMemWrite_ok h
          simp only [microStep, seqStep, doMemWrite, (hostWrite_atPos o hq hu).1, seqRest_atPos, hk]
        | delay =>
          simp only [microStep, seqStep, Except.ok.injEq] at h ⊢
          rw [seqRest_atPos, h]
        | powerOff =>
          simp only [microStep, seqStep, Except.ok.injEq] at h ⊢
          have := seqRest_atPos ms fs q o { s with powered := false, mii := .idle }
          rw [h] at this; exact this
    | initRx | initTx =>
      obtain ⟨v, u, hu, hk⟩ := doRead_ok h
      split at hk
      · cases hk
      · cases hk
        simp only [microStep, doRead, (busRead_atPos o hq hu).1]
        rw [if_neg ‹_›]
    | txPkt | txRead | rxRead =>
      obtain ⟨v, u, hu, hk⟩ := doMemRead_ok h
      cases hk; simp only [microStep, doMemRead, (hostRead_atPos o hq hu).1]
    | rxPkt =>
      obtain ⟨v, u, hu, hk⟩ := doMemRead_ok h
      simp only [microStep, doMemRead, (hostRead_atPos o hq hu).1, rxNext_atPos, hk]
    | txWrite =>
      obtain ⟨u, hu, hk⟩ := doMemWrite_ok h
      cases hk; simp only [microStep, doMemWrite, (hostWrite_atPos o hq hu).1]
    | txCtl =>
      obtain ⟨u, hu, hk⟩ := doMemWrite_ok h
      simp only [microStep, doMemWrite, (hostWrite_atPos o hq hu).1, resume_atPos, hk]
    | rxWrite =>
      obtain ⟨u, hu, hk⟩ := doMemWrite_ok h
      have hu' := (hostWrite_atPos o hq hu).1
      simp only [microStep, doMemWrite]
      rw [show (atPos q o s).tick = s.tick from rfl, hu']
      simp only [rxNext_atPos, hk]
    | chkRx | chkTx | rpData =>
      obtain ⟨v, u, hu, hk⟩ := doRead_ok h
      simp only [Except.ok.injEq] at hk
      simp only [microStep, doRead, (busRead_atPos o hq hu).1, resume_atPos, hk]
    | wpMadr | rpMadr =>
      obtain ⟨hs, u, hu, hk⟩ := doAddress_ok h
      cases hk
      simp only [microStep, doAddress, phySplit_atPos hq ho, hs, doWrite, (busWrite_atPos o hq hu).1, Bool.false_eq_true, if_false]
    | wpMwtd | rpMcmd | rpClear =>
      obtain ⟨u, hu, hk⟩ := doWrite_ok h
      cases hk; simp only [microStep, doWrite, (busWrite_atPos o hq hu).1]
    | wpPoll left =>
      obtain ⟨v, u, hu, hk⟩ := doRead_ok h
      simp only [microStep, doRead, (busRead_atPos o hq hu).1]
      split at hk
      · rename_i hb
        simp only [Except.ok.injEq] at hk
        rw [if_pos hb, resume_atPos, hk]
      · rename_i hb
        rw [if_neg hb]
        cases left
        · simp only [Except.ok.injEq] at hk
          simp only [resume_atPos, hk]
        · cases hk; rfl
    | rpPoll left =>
      obtain ⟨v, u, hu, hk⟩ := doRead_ok h
      simp only [microStep, doRead, (busRead_atPos o hq hu).1]
      split at hk
      · rename_i hb
        cases hk
        rw [if_pos hb]
      · rename_i hb
        rw [if_neg hb]
        cases left
        · simp only [Except.ok.injEq] at hk
          simp only [resume_atPos, hk]
        · cases hk; rfl
    | updDelay left =>
      cases left
      · simp only [microStep, Except.ok.injEq] at h ⊢
        have := resume_atPos codeLinkDown fs q o
          { s with link := .down, hist := .delayMs Config.linkDelayMs :: s.hist }
        rw [h] at this; exact this
      · simp only [microStep] at h ⊢; cases h; rfl
    | _ =>
      simp only [microStep, Except.ok.injEq] at h ⊢
      rw [resume_atPos, h]

/-- A micro-step keeps the context's position. -/
theorem microStep_pos {fs : List OpFrame} {s t : State} {c : Cont} (h : microStep fs s = .ok (t, c)) :
    t.irq = s.irq ∧ t.fgOp = s.fgOp := by
  obtain ⟨u, ha, hm⟩ := microStep_ok h
  rw [hm.2.2]
  cases ha with
  | none => exact ⟨rfl, rfl⟩
  | read r v _ hr => rw [(busRead_ok hr).2.2.2]; exact ⟨rfl, rfl⟩
  | write r v _ hr => rw [(busWrite_ok hr).2.2.2]; exact ⟨rfl, rfl⟩
  | memRead a v _ hr => rw [(hostRead_ok hr).2.2]; exact ⟨rfl, rfl⟩
  | memWrite a v _ hr => rw [(hostWrite_ok hr).2.2]; exact ⟨rfl, rfl⟩
  | event e => exact ⟨rfl, rfl⟩
  | powerOff => exact ⟨rfl, rfl⟩
  | powerOn => exact ⟨rfl, rfl⟩
  | setCb => exact ⟨rfl, rfl⟩

/-- A micro-step that answers, at the position `putOp` names. -/
theorem microStep_putOp {fs : List OpFrame} {s t : State} {c : Cont} (gs : List OpFrame)
    (h : microStep fs s = .ok (t, c)) : microStep fs (putOp gs s) = .ok (putOp gs t, c) := by
  obtain ⟨hi, ho⟩ := microStep_pos h
  cases hs : s.irq with
  | idle =>
    have h1 := microStep_atPos (q := .idle) gs (by simp [hs]) (fun e => absurd hs e) h
    have e1 : putOp gs s = atPos .idle gs s := by simp only [putOp, hs, atPos]
    have e2 : putOp gs t = atPos .idle gs t := by simp only [putOp, hi, hs, atPos]
    rw [e1, e2, h1]
  | running st pos =>
    cases pos with
    | body n id pc op =>
      have h1 := microStep_atPos (q := .running st (.body n id pc gs)) s.fgOp (by simp [hs]) (fun _ => rfl) h
      have e1 : putOp gs s = atPos (.running st (.body n id pc gs)) s.fgOp s := by simp only [putOp, hs, atPos, State.setIrq]
      have e2 : putOp gs t = atPos (.running st (.body n id pc gs)) s.fgOp t := by
        simp only [putOp, hi, hs, atPos, State.setIrq]; rw [← ho]
      rw [e1, e2, h1]
    | _ =>
      have e1 : putOp gs s = s := by simp [putOp, hs]
      have e2 : putOp gs t = t := by simp [putOp, hi, hs]
      rw [e1, e2, h]

/-! ### Runs of one operation -/

/-- One continued micro-step, on the state without its position. -/
theorem continueOp_putOp {fs : List OpFrame} {s t : State} {c : Cont} (hp : s.inProgram)
    (h : microStep fs s = .ok (t, c)) : continueOp (putOp fs s) = .next (settle (t, c)) := by
  have ht := inProgram_of_irq hp (microStep_pos h).1
  simp only [continueOp, curOp_putOp hp, opRun, microStep_putOp fs h, opAnswer]
  cases c with
  | run gs => simp only [settle, putOp_putOp ht]
  | ret v => simp only [settle, finish_putOp ht]

/-- A micro-step of an operation alone that leaves it in progress. -/
theorem aloneRun_step (n : Nat) {fs gs : List OpFrame} {s t : State} (hp : s.inProgram)
    (h : microStep fs (passTurn s) = .ok (t, .run gs)) : aloneRun (n + 1) (putOp fs s) = aloneRun n (putOp gs t) := by
  rw [aloneRun, passTurn_putOp, continueOp_putOp (s := passTurn s) (inProgram_of_irq hp rfl) h]; rfl

/-- The last micro-step of an operation alone. -/
theorem aloneRun_end (n : Nat) {fs : List OpFrame} {s t : State} {v : Word} (hp : s.inProgram)
    (h : microStep fs (passTurn s) = .ok (t, .ret v)) : aloneRun (n + 1) (putOp fs s) = aloneRun n (t.finish v) := by
  rw [aloneRun, passTurn_putOp, continueOp_putOp (s := passTurn s) (inProgram_of_irq hp rfl) h]; rfl

theorem miiStep_irq_eq (s : State) : (miiStep s).irq = s.irq := by
  unfold miiStep; split
  · rfl
  · split <;> rfl

/-- A micro-step of an operation with prompt management cycles that leaves it in progress. -/
theorem promptRun_step (n : Nat) {fs gs : List OpFrame} {s t : State} (hp : s.inProgram)
    (h : microStep fs (passTurn (miiStep (passTurn s))) = .ok (t, .run gs)) :
    promptRun (n + 1) (putOp fs s) = promptRun n (putOp gs t) := by
  rw [promptRun, passTurn_putOp, miiStep_putOp, passTurn_putOp,
    continueOp_putOp (s := passTurn (miiStep (passTurn s))) (inProgram_of_irq hp (miiStep_irq_eq (passTurn s))) h]; rfl

/-- The last micro-step of an operation with prompt management cycles. -/
theorem promptRun_end (n : Nat) {fs : List OpFrame} {s t : State} {v : Word} (hp : s.inProgram)
    (h : microStep fs (passTurn (miiStep (passTurn s))) = .ok (t, .ret v)) :
    promptRun (n + 1) (putOp fs s) = promptRun n (t.finish v) := by
  rw [promptRun, passTurn_putOp, miiStep_putOp, passTurn_putOp,
    continueOp_putOp (s := passTurn (miiStep (passTurn s))) (inProgram_of_irq hp (miiStep_irq_eq (passTurn s))) h]; rfl

end Sys2Proof.Machine
end

