-- ==== Sys2Proof/Laws/Step.lean ====
section
/-!
SUPPORT. Everything a command, and everything a step of the machine, can do, said once: an access, the internal moves of an
operation, and the move of the running context to its next position; or a step of a hardware agent; or interrupt entry and return.
-/

namespace Sys2Proof.Machine

/-- How the running context moves on: FG changes only its own position and result; the IRQ agent changes only its own
position and result, stays running, and appends invocations to the history. -/
def Moves (s t : State) : Prop :=
  (s.irq = .idle → t = { s with pc := t.pc, ret := t.ret, fgOp := t.fgOp, halted := t.halted }) ∧
  (s.irq ≠ .idle → (∃ es, t.hist = es ++ s.hist) ∧ t.irq ≠ .idle ∧
    t = { s with irq := t.irq, irqRet := t.irqRet, hist := t.hist })

theorem Moves.refl (s : State) : Moves s s := ⟨fun _ => rfl, fun h => ⟨⟨[], rfl⟩, h, rfl⟩⟩

theorem Moves.irq_idle {s t : State} (h : Moves s t) : t.irq = .idle ↔ s.irq = .idle := by
  constructor
  · intro ht
    by_contra hs
    exact (h.2 hs).2.1 ht
  · intro hs
    rw [h.1 hs]
    exact hs

theorem Moves.trans {s t u : State} (h : Moves s t) (h' : Moves t u) : Moves s u := by
  constructor
  · intro hs
    have ht := h.irq_idle.2 hs
    have h1 := h.1 hs
    have h2 := h'.1 ht
    rw [h2, h1]
  · intro hs
    have ht : t.irq ≠ .idle := fun e => hs (h.irq_idle.1 e)
    obtain ⟨⟨es, h1⟩, h2, h3⟩ := h.2 hs
    obtain ⟨⟨fs, h4⟩, h5, h6⟩ := h'.2 ht
    refine ⟨⟨fs ++ es, by rw [h4, h1, List.append_assoc]⟩, h5, ?_⟩
    rw [h6, h3]

/-- The dispatcher's internal moves. -/
theorem scan_moves (ns : List (Fin 10)) (st : Word) (s : State) :
    (∃ es, (scan ns st s).hist = es ++ s.hist) ∧ (scan ns st s).irq ≠ .idle ∧
      scan ns st s = { s with irq := (scan ns st s).irq, hist := (scan ns st s).hist } := by
  induction ns generalizing s with
  | nil =>
    simp only [scan]
    split <;> exact ⟨⟨[], rfl⟩, by simp, rfl⟩
  | cons n ns ih =>
    simp only [scan]
    split
    · split
      · split
        · obtain ⟨⟨es, h1⟩, h2, h3⟩ := ih (s.log (.invoke n ‹_›))
          exact ⟨⟨es ++ [_], by rw [h1, List.append_assoc]; rfl⟩, h2, by rw [h3]; rfl⟩
        · exact ⟨⟨[_], rfl⟩, by simp, rfl⟩
      · exact ih s
    · exact ih s

theorem leaveBody_moves (st : Word) (n : Fin 10) (s : State) :
    (∃ es, (leaveBody st n s).hist = es ++ s.hist) ∧ (leaveBody st n s).irq ≠ .idle ∧
      leaveBody st n s = { s with irq := (leaveBody st n s).irq, hist := (leaveBody st n s).hist } := by
  unfold leaveBody
  split
  · exact ⟨⟨[], rfl⟩, by simp, rfl⟩
  · exact scan_moves _ _ _

theorem enterWake_moves (st : Word) (s : State) :
    (∃ es, (enterWake st s).hist = es ++ s.hist) ∧ (enterWake st s).irq ≠ .idle ∧
      enterWake st s = { s with irq := (enterWake st s).irq, hist := (enterWake st s).hist } := by
  unfold enterWake
  split
  · split
    · exact ⟨⟨[_], rfl⟩, by simp, rfl⟩
    · exact ⟨⟨[_], rfl⟩, by simp, rfl⟩
  · exact ⟨⟨[], rfl⟩, by simp, rfl⟩

theorem goTo_moves (k : Nat) (s : State) : Moves s (goTo k s) := by
  unfold goTo
  split
  · rename_i h
    exact ⟨fun _ => rfl, fun hn => absurd h hn⟩
  · rename_i st n id _ _ h
    refine ⟨fun hi => by simp [h] at hi, fun _ => ?_⟩
    split
    · exact ⟨⟨[], rfl⟩, by simp, rfl⟩
    · obtain ⟨h1, h2, h3⟩ := leaveBody_moves st n s
      exact ⟨h1, h2, by rw [h3]⟩
  · exact Moves.refl s

theorem putRet_moves (v : Word) (s : State) : Moves s (putRet v s) := by
  unfold putRet
  split
  · rename_i h
    exact ⟨fun _ => rfl, fun hn => absurd h hn⟩
  · rename_i h
    exact ⟨fun hi => by simp [h] at hi, fun hn => ⟨⟨[], rfl⟩, hn, rfl⟩⟩

theorem finish_moves (v : Word) (s : State) : Moves s (s.finish v) := (putRet_moves v s).trans (goTo_moves _ _)

theorem next_moves (s : State) : Moves s s.next := goTo_moves _ _

theorem putOp_moves (fs : List OpFrame) (s : State) : Moves s (putOp fs s) := by
  unfold putOp
  split
  · rename_i h
    exact ⟨fun _ => rfl, fun hn => absurd h hn⟩
  · rename_i h
    exact ⟨fun hi => by simp [h] at hi, fun _ => ⟨⟨[], rfl⟩, by simp, rfl⟩⟩
  · exact Moves.refl s

theorem haltAgent_moves (s : State) : Moves s (haltAgent s) := by
  unfold haltAgent
  split
  · rename_i h
    exact ⟨fun _ => rfl, fun hn => absurd h hn⟩
  · rename_i st n _ _ _ h
    refine ⟨fun hi => by simp [h] at hi, fun _ => ?_⟩
    obtain ⟨h1, h2, h3⟩ := leaveBody_moves st n s
    exact ⟨h1, h2, by rw [h3]⟩
  · exact Moves.refl s

theorem setIrq_moves {st : Word} {pos : IrqPos} {s : State} (h : s.irq ≠ .idle) : Moves s (s.setIrq st pos) :=
  ⟨fun h' => absurd h' h, fun _ => ⟨⟨[], rfl⟩, by simp, rfl⟩⟩

/-- What one micro-step of a host context does: an access, internal moves, and the context's own move. -/
def HostStep (s t : State) : Prop := ∃ u v, Access s u ∧ Marks u v ∧ Moves v t

theorem settle_moves (x : State × Cont) : Moves x.1 (settle x) := by
  obtain ⟨t, c⟩ := x
  cases c
  · exact putOp_moves _ _
  · exact finish_moves _ _

theorem opAnswer_ok {r : Except Fault (State × Cont)} {t : State} (h : opAnswer r = .next t) :
    ∃ x, r = .ok x ∧ t = settle x := by
  unfold opAnswer at h
  split at h
  · cases h
  · cases h; exact ⟨_, rfl, rfl⟩

theorem opRun_ok {fs : List OpFrame} {s t : State} (h : opRun fs s = .next t) : HostStep s t := by
  obtain ⟨⟨u, c⟩, h1, rfl⟩ := opAnswer_ok h
  obtain ⟨w, h2, h3⟩ := microStep_ok h1
  exact ⟨w, u, h2, h3, settle_moves (u, c)⟩

theorem continueOp_ok {s t : State} (h : continueOp s = .next t) : HostStep s t := opRun_ok h

theorem answer_ok {r : Except Fault (Word × State)} {t : State} (h : answer r = .next t) :
    ∃ v u, r = .ok (v, u) ∧ t = u.finish v := by
  unfold answer at h
  split at h
  · cases h
  · cases h; exact ⟨_, _, rfl, rfl⟩

theorem answerKeep_ok {r : Except Fault State} {t : State} (h : answerKeep r = .next t) :
    ∃ u, r = .ok u ∧ t = u.next := by
  unfold answerKeep at h
  split at h
  · cases h
  · cases h; exact ⟨_, rfl, rfl⟩

theorem rd_ok {r : Reg} {s t : State} (h : answer (busRead r s) = .next t) : HostStep s t := by
  obtain ⟨v, u, h1, rfl⟩ := answer_ok h
  exact ⟨u, u, .read r v u h1, Marks.refl u, finish_moves _ _⟩

theorem wr_ok {r : Reg} {v : Word} {s t : State} (h : answerKeep (busWrite r v s) = .next t) : HostStep s t := by
  obtain ⟨u, h1, rfl⟩ := answerKeep_ok h
  exact ⟨u, u, .write r v u h1, Marks.refl u, next_moves _⟩

theorem doRead_host {r : Reg} {s t : State} {k : Word → State → Except Fault (State × Cont)}
    (hk : ∀ v u x, k v u = .ok x → x.1 = u) (h : opAnswer (doRead r s k) = .next t) : HostStep s t := by
  obtain ⟨x, h1, rfl⟩ := opAnswer_ok h
  obtain ⟨v, u, h2, h3⟩ := doRead_ok h1
  exact ⟨u, u, .read r v u h2, Marks.refl u, by rw [← hk v u x h3]; exact settle_moves x⟩

/-- What a command does, if it answers a next state. -/
theorem exec_ok {i : Instr} {s t : State} (h : exec i s = .next t) : HostStep s t := by
  cases i <;> simp only [exec] at h
  case initRxRing | initTxRing =>
    first | unfold execInitRxRing at h | unfold execInitTxRing at h
    split at h
    · cases h
    · exact opRun_ok h
  case writeTxPacket =>
    unfold execWriteTxPacket at h
    split at h; · cases h
    split at h; · cases h
    split at h; · cases h
    refine doRead_host (fun v u x hx => ?_) h
    split at hx
    · cases hx
    · cases hx; rfl
  case readRxPacket =>
    unfold execReadRxPacket at h
    split at h; · cases h
    split at h; · cases h
    split at h; · cases h
    refine doRead_host (fun v u x hx => ?_) h
    split at hx
    · cases hx
    · split at hx <;> cases hx <;> rfl
  case advanceConsume => exact doRead_host (fun v u x hx => by cases hx; rfl) h
  case advanceProduce => exact doRead_host (fun v u x hx => by cases hx; rfl) h
  case checkReceiveIndex => exact doRead_host (fun v u x hx => by cases hx; rfl) h
  case checkTransmitIndex => exact doRead_host (fun v u x hx => by cases hx; rfl) h
  case writePhy => unfold execWritePhy at h; split at h; exacts [opRun_ok h, by cases h]
  case readPhy => unfold execReadPhy at h; split at h; exacts [opRun_ok h, by cases h]
  case detectPhy => exact opRun_ok h
  case checkStatus => exact opRun_ok h
  case updateStatus => exact opRun_ok h
  case setMode =>
    unfold execSetMode at h
    split at h
    · exact opRun_ok h
    · cases h; exact ⟨s, s, .none, Marks.refl s, finish_moves _ _⟩
  case init =>
    unfold execInit at h
    split at h; · cases h
    split at h; · cases h
    rename_i hi
    split at h; · cases h
    rename_i hd
    cases h
    exact ⟨_, _, .powerOn (not_not.mp hi) (not_not.mp hd), Marks.refl _, putOp_moves _ _⟩
  case deinit =>
    unfold execDeinit at h
    split at h; · cases h
    split at h
    · exact opRun_ok h
    · cases h
      exact ⟨s, { s with drv := .uninitialized, link := .unknown }, .none, ⟨id, id, rfl⟩, finish_moves _ _⟩
  case setHashFilter => unfold execSetHashFilter at h; split at h; exacts [opRun_ok h, by cases h]
  case setupCallback =>
    unfold execSetupCallback at h
    split at h; · cases h
    rename_i hi
    split at h
    · cases h; exact ⟨s, s, .none, Marks.refl s, finish_moves _ _⟩
    · cases h; exact ⟨_, _, .setCb _ (not_not.mp hi), Marks.refl _, finish_moves _ _⟩
  case dispatch =>
    unfold execDispatch at h
    split at h
    · rename_i st hst
      unfold thenRead at h
      split at h
      · cases h
      · rename_i v u hu
        cases h
        refine ⟨_, _, .read _ _ _ hu, Marks.refl _, setIrq_moves ?_⟩
        rw [(busRead_ok hu).2.2.2]
        simp [readLogged, hst]
    · cases h
  case crc32 => cases h; exact ⟨s, s, .none, Marks.refl s, finish_moves _ _⟩
  case memRead32 =>
    obtain ⟨v, u, h1, rfl⟩ := answer_ok h
    exact ⟨u, u, .memRead _ v u h1, Marks.refl u, finish_moves _ _⟩
  case memWrite32 =>
    obtain ⟨u, h1, rfl⟩ := answerKeep_ok h
    exact ⟨u, u, .memWrite _ _ u h1, Marks.refl u, next_moves _⟩
  case delayMs => cases h; exact ⟨_, _, .event _, Marks.refl _, next_moves _⟩
  case beq =>
    unfold execBeq at h
    split at h
    · cases h; refine ⟨s, s, .none, Marks.refl s, ?_⟩; split; exacts [goTo_moves _ _, next_moves _]
    · cases h
  case bne =>
    unfold execBne at h
    split at h
    · cases h; refine ⟨s, s, .none, Marks.refl s, ?_⟩; split; exacts [goTo_moves _ _, next_moves _]
    · cases h
  case jmp =>
    unfold execJmp at h
    split at h
    · cases h; exact ⟨s, s, .none, Marks.refl s, goTo_moves _ _⟩
    · cases h
  case halt => cases h; exact ⟨s, s, .none, Marks.refl s, haltAgent_moves _⟩
  all_goals first | exact rd_ok h | exact wr_ok h

theorem runLine_ok {l : Line} {s t : State} (h : runLine l s = .next t) :
    ∃ i, decode l = some i ∧ exec i s = .next t := by
  unfold runLine at h
  split at h
  · rename_i i hi; exact ⟨i, by simp [decode, hi], h⟩
  · unfold holeFault at h
    split at h; · cases h
    split at h <;> cases h
  · cases h

theorem contextStep_ok {s t : State} (h : contextStep s = .next t) : HostStep s t := by
  unfold contextStep at h
  split at h
  · split at h
    · obtain ⟨i, _, hi⟩ := runLine_ok h; exact exec_ok hi
    · cases h; exact ⟨s, s, .none, Marks.refl s, Moves.refl s⟩
  · exact continueOp_ok h

/-! ### The end of a run -/

theorem fgHalted_iff {s : State} : s.fgHalted = true ↔ s.halted = true ∨ s.fgOp = [] ∧ s.prog.length ≤ s.pc := by
  simp [State.fgHalted]

theorem runEnded_iff {s : State} :
    s.runEnded = true ↔ (s.halted = true ∨ s.fgOp = [] ∧ s.prog.length ≤ s.pc) ∧ s.irq = .idle := by
  rw [State.runEnded, Bool.and_eq_true, fgHalted_iff, decide_eq_true_eq]

/-! ### Steps of the agents -/

/-- What the agent whose turn it is does, if its step answers. -/
inductive AgentStep (s : State) : State → Prop where
  | stutter : AgentStep s s
  | fg (t : State) : s.turn = .fg → s.irq = .idle → s.halted = false → contextStep s = .next t → HostStep s t →
      AgentStep s t
  | irq (t : State) : s.turn = .irq → s.irq ≠ .idle → HostStep s t → AgentStep s t
  | entry : s.turn = .irq → s.irq = .idle → irqLine s = true → AgentStep s (takeInterrupt s)
  | exit (st : Word) : s.turn = .irq → s.irq = .running st .done → AgentStep s (returnInterrupt s)
  | rxdma (o : RxOffer) : s.turn = .rxdma o → AgentStep s (rxdmaStep o s)
  | txdma (d : BitVec 10) : s.turn = .txdma d → AgentStep s (txdmaStep d s)
  | mii : s.turn = .mii → AgentStep s (miiStep s)
  | wake (b : BitVec 9) : s.turn = .wake b → AgentStep s (wakeStep b s)

theorem irqStep_ok {s t : State} (ht : s.turn = .irq) (h : irqStep s = .next t) : AgentStep s t := by
  unfold irqStep at h
  split at h
  · rename_i hi
    split at h
    · cases h; exact .entry ht hi ‹_›
    · cases h; exact .stutter
  · rename_i st pos hi
    have hne : s.irq ≠ .idle := by rw [hi]; simp
    split at h
    · obtain ⟨i, _, he⟩ := runLine_ok h; exact .irq _ ht hne (exec_ok he)
    · unfold dispatchEnable thenRead at h
      split at h
      · cases h
      · rename_i v u hu
        cases h
        refine .irq _ ht hne ⟨_, _, .read _ _ _ hu, Marks.refl _, setIrq_moves ?_⟩
        rw [(busRead_ok hu).2.2.2]; exact hne
    · unfold dispatchClear thenWrite at h
      split at h
      · cases h
      · rename_i u hu
        cases h
        have hu' : u.irq ≠ .idle := by rw [(busWrite_ok hu).2.2.2]; simpa using hne
        obtain ⟨h1, h2, h3⟩ := scan_moves batchOrdinals st u
        exact .irq _ ht hne ⟨_, _, .write _ _ _ hu, Marks.refl _, fun e => absurd e hu', fun _ => ⟨h1, h2, by rw [h3]⟩⟩
    · exact .irq _ ht hne (contextStep_ok h)
    · unfold dispatchWolClear thenWrite at h
      split at h
      · cases h
      · rename_i u hu
        cases h
        have hu' : u.irq ≠ .idle := by rw [(busWrite_ok hu).2.2.2]; simpa using hne
        obtain ⟨h1, h2, h3⟩ := enterWake_moves st u
        exact .irq _ ht hne ⟨_, _, .write _ _ _ hu, Marks.refl _, fun e => absurd e hu', fun _ => ⟨h1, h2, by rw [h3]⟩⟩
    · cases h; exact .exit st ht hi

/-- Everything a step of the machine can do, if it answers. -/
theorem step_ok {s t : State} (h : step s = .next t) : ∃ u, AgentStep s u ∧ t = passTurn u := by
  unfold step machineStep endStep at h
  split at h
  · rename_i u hu
    cases h
    refine ⟨u, ?_, rfl⟩
    unfold agentStep at hu
    split at hu
    · rename_i ht
      unfold fgStep at hu
      split at hu
      · rename_i hc; exact .fg u ht hc.1 hc.2 hu (contextStep_ok hu)
      · cases hu; exact .stutter
    · exact irqStep_ok ‹_› hu
    · cases hu; exact .rxdma _ ‹_›
    · cases hu; exact .txdma _ ‹_›
    · cases hu; exact .mii ‹_›
    · cases hu; exact .wake _ ‹_›
  · cases h
  · cases h

end Sys2Proof.Machine
end

