-- ==== Sys2Proof/Laws/Fault.lean ====
section
/-!
SUPPORT. Faults (spec/60_exceptions.md R602): every fault is raised at the state its step started from, said once for each shared
operation, for a command and for an agent's step; and what recording a fault in the history (spec/10_state.md R84) changes.
-/

namespace Sys2Proof.Machine

/-! ### Recording -/

@[simp] theorem Fault.recorded_reason (f : Fault) : f.recorded.reason = f.reason := by cases f <;> rfl
@[simp] theorem Fault.recorded_site (f : Fault) : f.recorded.site = f.site.record f.reason := by cases f <;> rfl
@[simp] theorem FaultSite.record_hist (r : FaultReason) (x : FaultSite) :
    (x.record r).hist = .fault x.agent r x.addr :: x.hist := rfl
@[simp] theorem FaultSite.record_agent (r : FaultReason) (x : FaultSite) : (x.record r).agent = x.agent := rfl
@[simp] theorem FaultSite.record_command (r : FaultReason) (x : FaultSite) : (x.record r).command = x.command := rfl
@[simp] theorem FaultSite.record_op (r : FaultReason) (x : FaultSite) : (x.record r).op = x.op := rfl
@[simp] theorem FaultSite.record_irq (r : FaultReason) (x : FaultSite) : (x.record r).irq = x.irq := rfl
@[simp] theorem FaultSite.record_addr (r : FaultReason) (x : FaultSite) : (x.record r).addr = x.addr := rfl

/-! ### Where a fault is raised -/

/-- The fault keeps what R602 says of the state `s`. -/
def RaisedAt (s : State) (f : Fault) : Prop := ∃ addr, f.site = s.site addr

theorem memCheck_site {a : Nat} {mk : FaultSite → Fault} (h : memCheck a = some mk) (x : FaultSite) : (mk x).site = x := by
  unfold memCheck at h
  split at h
  · cases h; rfl
  · split at h <;> cases h; rfl

theorem writeCheck_site {r : Reg} {v : Word} {s : State} {mk : FaultSite → Fault} (h : writeCheck r v s = some mk)
    (x : FaultSite) : (mk x).site = x := by
  cases r <;> simp only [writeCheck] at h <;> (repeat' split at h) <;> first | (cases h; rfl) | cases h

theorem busRead_fault {r : Reg} {s : State} {f : Fault} (h : busRead r s = .error f) : RaisedAt s f := by
  unfold busRead at h
  split at h
  · cases h; exact ⟨_, rfl⟩
  · split at h <;> cases h; exact ⟨_, rfl⟩

theorem busWrite_fault {r : Reg} {v : Word} {s : State} {f : Fault} (h : busWrite r v s = .error f) : RaisedAt s f := by
  unfold busWrite at h
  split at h
  · cases h; exact ⟨_, rfl⟩
  · split at h
    · cases h; exact ⟨_, rfl⟩
    · split at h <;> cases h; exact ⟨_, writeCheck_site ‹_› _⟩

theorem hostRead_fault {a : Nat} {s : State} {f : Fault} (h : hostRead a s = .error f) : RaisedAt s f := by
  unfold hostRead at h
  split at h <;> cases h; exact ⟨_, memCheck_site ‹_› _⟩

theorem hostWrite_fault {a : Nat} {v : Word} {s : State} {f : Fault} (h : hostWrite a v s = .error f) : RaisedAt s f := by
  unfold hostWrite at h
  split at h
  · cases h; exact ⟨_, memCheck_site ‹_› _⟩
  · split at h <;> cases h; exact ⟨_, rfl⟩

theorem doWrite_fault {r : Reg} {v : Word} {s : State} {k : State → State × Cont} {f : Fault}
    (h : doWrite r v s k = .error f) : RaisedAt s f := by
  unfold doWrite at h
  split at h <;> cases h; exact busWrite_fault ‹_›

theorem doAddress_fault {reg : MiiAddr} {s : State} {k : State → State × Cont} {f : Fault}
    (h : doAddress reg s k = .error f) : RaisedAt s f := by
  unfold doAddress at h
  split at h
  · cases h; exact ⟨_, rfl⟩
  · exact doWrite_fault h

theorem doRead_fault {r : Reg} {s : State} {k : Word → State → Except Fault (State × Cont)} {f : Fault}
    (hk : ∀ v t, k v t = .error f → RaisedAt s f) (h : doRead r s k = .error f) : RaisedAt s f := by
  unfold doRead at h
  split at h
  · cases h; exact busRead_fault ‹_›
  · exact hk _ _ h

theorem doMemWrite_fault {a : Nat} {v : Word} {s : State} {k : State → State × Cont} {f : Fault}
    (h : doMemWrite a v s k = .error f) : RaisedAt s f := by
  unfold doMemWrite at h
  split at h <;> cases h; exact hostWrite_fault ‹_›

theorem doMemRead_fault {a : Nat} {s : State} {k : Word → State → State × Cont} {f : Fault}
    (h : doMemRead a s k = .error f) : RaisedAt s f := by
  unfold doMemRead at h
  split at h <;> cases h; exact hostRead_fault ‹_›

/-- A micro-step that faults raises the fault at the state it started from. -/
theorem microStep_fault {fs : List OpFrame} {s : State} {f : Fault} (h : microStep fs s = .error f) : RaisedAt s f := by
  cases fs with
  | nil => cases h
  | cons g fs =>
    cases g with
    | seq ms =>
      cases ms with
      | nil => cases h
      | cons m ms =>
        cases m with
        | write => exact doWrite_fault h
        | setBits | clrBits => exact doRead_fault (fun _ _ hk => by cases hk) h
        | memWrite => exact doMemWrite_fault h
        | delay | powerOff => cases h
    | initRx | initTx =>
      refine doRead_fault (fun _ _ hk => ?_) h
      split at hk <;> cases hk; exact ⟨_, rfl⟩
    | txPkt | txRead | rxPkt | rxRead => exact doMemRead_fault h
    | txWrite | txCtl | rxWrite => exact doMemWrite_fault h
    | chkRx | chkTx | rpData => exact doRead_fault (fun _ _ hk => by cases hk) h
    | wpMadr | rpMadr => exact doAddress_fault h
    | wpMwtd | rpMcmd | rpClear => exact doWrite_fault h
    | wpPoll left | rpPoll left =>
      refine doRead_fault (fun _ _ hk => ?_) h
      split at hk
      · cases hk
      · cases left <;> cases hk
    | updDelay left => cases left <;> cases h
    | _ => cases h

theorem opAnswer_fault {s : State} {r : Except Fault (State × Cont)} {f : Fault} (hr : ∀ g, r = .error g → RaisedAt s g)
    (h : opAnswer r = .fault f) : RaisedAt s f := by
  unfold opAnswer at h
  split at h <;> cases h; exact hr _ rfl

theorem opRun_fault {fs : List OpFrame} {s : State} {f : Fault} (h : opRun fs s = .fault f) : RaisedAt s f :=
  opAnswer_fault (fun _ => microStep_fault) h

theorem answer_fault {s : State} {r : Except Fault (Word × State)} {f : Fault} (hr : ∀ g, r = .error g → RaisedAt s g)
    (h : answer r = .fault f) : RaisedAt s f := by
  unfold answer at h
  split at h <;> cases h; exact hr _ rfl

theorem answerKeep_fault {s : State} {r : Except Fault State} {f : Fault} (hr : ∀ g, r = .error g → RaisedAt s g)
    (h : answerKeep r = .fault f) : RaisedAt s f := by
  unfold answerKeep at h
  split at h <;> cases h; exact hr _ rfl

/-- A command that faults raises the fault at the state it started from. -/
theorem exec_fault {i : Instr} {s : State} {f : Fault} (h : exec i s = .fault f) : RaisedAt s f := by
  have stop : ∀ {g : Fault} {addr : Option Nat}, g.site = s.site addr → (Host.Outcome.fault g : Outcome) = .fault f →
      RaisedAt s f := by
    intro g addr hg he; cases he; exact ⟨addr, hg⟩
  cases i <;> simp only [exec] at h
  case initRxRing => unfold execInitRxRing at h; split at h; exacts [stop rfl h, opRun_fault h]
  case initTxRing => unfold execInitTxRing at h; split at h; exacts [stop rfl h, opRun_fault h]
  case writeTxPacket =>
    unfold execWriteTxPacket at h
    split at h; · exact stop rfl h
    split at h; · exact stop rfl h
    split at h; · exact stop rfl h
    refine opAnswer_fault (fun _ => doRead_fault fun _ _ hk => ?_) h
    split at hk <;> cases hk; exact ⟨_, rfl⟩
  case readRxPacket =>
    unfold execReadRxPacket at h
    split at h; · exact stop rfl h
    split at h; · exact stop rfl h
    split at h; · exact stop rfl h
    refine opAnswer_fault (fun _ => doRead_fault fun _ _ hk => ?_) h
    split at hk
    · cases hk; exact ⟨_, rfl⟩
    · split at hk <;> cases hk
  case advanceConsume | advanceProduce | checkReceiveIndex | checkTransmitIndex =>
    exact opAnswer_fault (fun _ => doRead_fault fun _ _ hk => by cases hk) h
  case writePhy => unfold execWritePhy at h; split at h; exacts [opRun_fault h, stop rfl h]
  case readPhy => unfold execReadPhy at h; split at h; exacts [opRun_fault h, stop rfl h]
  case detectPhy | checkStatus | updateStatus => exact opRun_fault h
  case setMode => unfold execSetMode at h; split at h; exacts [opRun_fault h, by cases h]
  case init =>
    unfold execInit at h
    split at h; · exact stop rfl h
    split at h; · exact stop rfl h
    split at h; · exact stop rfl h
    cases h
  case deinit =>
    unfold execDeinit at h
    split at h; · exact stop rfl h
    split at h; exacts [opRun_fault h, by cases h]
  case setHashFilter => unfold execSetHashFilter at h; split at h; exacts [opRun_fault h, stop rfl h]
  case setupCallback =>
    unfold execSetupCallback at h
    split at h; · exact stop rfl h
    split at h <;> cases h
  case dispatch =>
    unfold execDispatch at h
    split at h
    · unfold thenRead at h; split at h <;> cases h; exact busRead_fault ‹_›
    · exact stop rfl h
  case beq => unfold execBeq at h; split at h; exacts [(by cases h), stop rfl h]
  case bne => unfold execBne at h; split at h; exacts [(by cases h), stop rfl h]
  case jmp => unfold execJmp at h; split at h; exacts [(by cases h), stop rfl h]
  case crc32 | halt | delayMs => cases h
  case memRead32 => exact answer_fault (fun _ => hostRead_fault) h
  case memWrite32 => exact answerKeep_fault (fun _ => hostWrite_fault) h
  all_goals first
    | exact answer_fault (fun _ => busRead_fault) h
    | exact answerKeep_fault (fun _ => busWrite_fault) h

theorem runLine_fault {l : Line} {s : State} {f : Fault} (h : runLine l s = .fault f) : RaisedAt s f := by
  unfold runLine at h
  split at h
  · exact exec_fault h
  · unfold holeFault at h
    split at h
    · cases h; exact ⟨_, rfl⟩
    · split at h <;> cases h <;> exact ⟨_, rfl⟩
  · cases h; exact ⟨_, rfl⟩

theorem contextStep_fault {s : State} {f : Fault} (h : contextStep s = .fault f) : RaisedAt s f := by
  unfold contextStep at h
  split at h
  · split at h
    · exact runLine_fault h
    · cases h
  · exact opRun_fault h

/-- A step of an agent that faults is FG's or IRQ's, and raises the fault at the state it started from. -/
theorem agentStep_fault {s : State} {f : Fault} (h : agentStep s = .fault f) :
    (s.turn = .fg ∧ s.irq = .idle ∨ s.turn = .irq ∧ s.irq ≠ .idle) ∧ RaisedAt s f := by
  unfold agentStep at h
  split at h
  · unfold fgStep at h
    split at h
    · rename_i ht hc; exact ⟨Or.inl ⟨ht, hc.1⟩, contextStep_fault h⟩
    · cases h
  · rename_i ht
    unfold irqStep at h
    split at h
    · cases h
    · rename_i hi
      refine ⟨Or.inr ⟨ht, by rw [hi]; simp⟩, ?_⟩
      split at h
      · exact runLine_fault h
      · unfold dispatchEnable thenRead at h; split at h <;> cases h; exact busRead_fault ‹_›
      · unfold dispatchClear thenWrite at h; split at h <;> cases h; exact busWrite_fault ‹_›
      · exact contextStep_fault h
      · unfold dispatchWolClear thenWrite at h; split at h <;> cases h; exact busWrite_fault ‹_›
      · cases h
  all_goals cases h

end Sys2Proof.Machine
end

