-- ==== Sys2Proof/Laws/PerInstr.lean ====
section
/-!
SUPPORT. Per-instruction laws: the word of every command is legal (spec/30_encoding.md R154, R155, R158, R159), whatever its
arguments.
-/

namespace Sys2Proof.Laws.LegalWord

/-- The decoder accepts the word of the command's encoding. -/
def Statement (i : Instr) : Prop := decodeWord (encode i).word ≠ .illegal

theorem rdMac1 : Statement (.rdMac1) := show decodeWord (busWord .read 0x000) ≠ .illegal by decide

theorem wrMac1 (data : Word) : Statement (.wrMac1 data) := show decodeWord (busWord .write 0x000) ≠ .illegal by decide

theorem rdMac2 : Statement (.rdMac2) := show decodeWord (busWord .read 0x004) ≠ .illegal by decide

theorem wrMac2 (data : Word) : Statement (.wrMac2 data) := show decodeWord (busWord .write 0x004) ≠ .illegal by decide

theorem rdIpgt : Statement (.rdIpgt) := show decodeWord (busWord .read 0x008) ≠ .illegal by decide

theorem wrIpgt (data : Word) : Statement (.wrIpgt data) := show decodeWord (busWord .write 0x008) ≠ .illegal by decide

theorem rdIpgr : Statement (.rdIpgr) := show decodeWord (busWord .read 0x00C) ≠ .illegal by decide

theorem wrIpgr (data : Word) : Statement (.wrIpgr data) := show decodeWord (busWord .write 0x00C) ≠ .illegal by decide

theorem rdClrt : Statement (.rdClrt) := show decodeWord (busWord .read 0x010) ≠ .illegal by decide

theorem wrClrt (data : Word) : Statement (.wrClrt data) := show decodeWord (busWord .write 0x010) ≠ .illegal by decide

theorem rdMaxf : Statement (.rdMaxf) := show decodeWord (busWord .read 0x014) ≠ .illegal by decide

theorem wrMaxf (data : Word) : Statement (.wrMaxf data) := show decodeWord (busWord .write 0x014) ≠ .illegal by decide

theorem rdSupp : Statement (.rdSupp) := show decodeWord (busWord .read 0x018) ≠ .illegal by decide

theorem wrSupp (data : Word) : Statement (.wrSupp data) := show decodeWord (busWord .write 0x018) ≠ .illegal by decide

theorem rdMcfg : Statement (.rdMcfg) := show decodeWord (busWord .read 0x020) ≠ .illegal by decide

theorem wrMcfg (data : Word) : Statement (.wrMcfg data) := show decodeWord (busWord .write 0x020) ≠ .illegal by decide

theorem rdMcmd : Statement (.rdMcmd) := show decodeWord (busWord .read 0x024) ≠ .illegal by decide

theorem wrMcmd (data : Word) : Statement (.wrMcmd data) := show decodeWord (busWord .write 0x024) ≠ .illegal by decide

theorem rdMadr : Statement (.rdMadr) := show decodeWord (busWord .read 0x028) ≠ .illegal by decide

theorem wrMadr (data : Word) : Statement (.wrMadr data) := show decodeWord (busWord .write 0x028) ≠ .illegal by decide

theorem rdMwtd : Statement (.rdMwtd) := show decodeWord (busWord .read 0x02C) ≠ .illegal by decide

theorem wrMwtd (data : Word) : Statement (.wrMwtd data) := show decodeWord (busWord .write 0x02C) ≠ .illegal by decide

theorem rdMrdd : Statement (.rdMrdd) := show decodeWord (busWord .read 0x030) ≠ .illegal by decide

theorem wrMrdd (data : Word) : Statement (.wrMrdd data) := show decodeWord (busWord .write 0x030) ≠ .illegal by decide

theorem rdMind : Statement (.rdMind) := show decodeWord (busWord .read 0x034) ≠ .illegal by decide

theorem wrMind (data : Word) : Statement (.wrMind data) := show decodeWord (busWord .write 0x034) ≠ .illegal by decide

theorem rdSa0 : Statement (.rdSa0) := show decodeWord (busWord .read 0x040) ≠ .illegal by decide

theorem wrSa0 (data : Word) : Statement (.wrSa0 data) := show decodeWord (busWord .write 0x040) ≠ .illegal by decide

theorem rdSa1 : Statement (.rdSa1) := show decodeWord (busWord .read 0x044) ≠ .illegal by decide

theorem wrSa1 (data : Word) : Statement (.wrSa1 data) := show decodeWord (busWord .write 0x044) ≠ .illegal by decide

theorem rdSa2 : Statement (.rdSa2) := show decodeWord (busWord .read 0x048) ≠ .illegal by decide

theorem wrSa2 (data : Word) : Statement (.wrSa2 data) := show decodeWord (busWord .write 0x048) ≠ .illegal by decide

theorem rdCommand : Statement (.rdCommand) := show decodeWord (busWord .read 0x100) ≠ .illegal by decide

theorem wrCommand (data : Word) : Statement (.wrCommand data) := show decodeWord (busWord .write 0x100) ≠ .illegal by decide

theorem rdStatus : Statement (.rdStatus) := show decodeWord (busWord .read 0x104) ≠ .illegal by decide

theorem wrStatus (data : Word) : Statement (.wrStatus data) := show decodeWord (busWord .write 0x104) ≠ .illegal by decide

theorem rdRxDescriptor : Statement (.rdRxDescriptor) := show decodeWord (busWord .read 0x108) ≠ .illegal by decide

theorem wrRxDescriptor (data : Word) : Statement (.wrRxDescriptor data) := show decodeWord (busWord .write 0x108) ≠ .illegal by decide

theorem rdRxStatus : Statement (.rdRxStatus) := show decodeWord (busWord .read 0x10C) ≠ .illegal by decide

theorem wrRxStatus (data : Word) : Statement (.wrRxStatus data) := show decodeWord (busWord .write 0x10C) ≠ .illegal by decide

theorem rdRxDescriptorNumber : Statement (.rdRxDescriptorNumber) := show decodeWord (busWord .read 0x110) ≠ .illegal by decide

theorem wrRxDescriptorNumber (data : Word) : Statement (.wrRxDescriptorNumber data) := show decodeWord (busWord .write 0x110) ≠ .illegal by decide

theorem rdRxProduceIndex : Statement (.rdRxProduceIndex) := show decodeWord (busWord .read 0x114) ≠ .illegal by decide

theorem wrRxProduceIndex (data : Word) : Statement (.wrRxProduceIndex data) := show decodeWord (busWord .write 0x114) ≠ .illegal by decide

theorem rdRxConsumeIndex : Statement (.rdRxConsumeIndex) := show decodeWord (busWord .read 0x118) ≠ .illegal by decide

theorem wrRxConsumeIndex (data : Word) : Statement (.wrRxConsumeIndex data) := show decodeWord (busWord .write 0x118) ≠ .illegal by decide

theorem rdTxDescriptor : Statement (.rdTxDescriptor) := show decodeWord (busWord .read 0x11C) ≠ .illegal by decide

theorem wrTxDescriptor (data : Word) : Statement (.wrTxDescriptor data) := show decodeWord (busWord .write 0x11C) ≠ .illegal by decide

theorem rdTxStatus : Statement (.rdTxStatus) := show decodeWord (busWord .read 0x120) ≠ .illegal by decide

theorem wrTxStatus (data : Word) : Statement (.wrTxStatus data) := show decodeWord (busWord .write 0x120) ≠ .illegal by decide

theorem rdTxDescriptorNumber : Statement (.rdTxDescriptorNumber) := show decodeWord (busWord .read 0x124) ≠ .illegal by decide

theorem wrTxDescriptorNumber (data : Word) : Statement (.wrTxDescriptorNumber data) := show decodeWord (busWord .write 0x124) ≠ .illegal by decide

theorem rdTxProduceIndex : Statement (.rdTxProduceIndex) := show decodeWord (busWord .read 0x128) ≠ .illegal by decide

theorem wrTxProduceIndex (data : Word) : Statement (.wrTxProduceIndex data) := show decodeWord (busWord .write 0x128) ≠ .illegal by decide

theorem rdTxConsumeIndex : Statement (.rdTxConsumeIndex) := show decodeWord (busWord .read 0x12C) ≠ .illegal by decide

theorem wrTxConsumeIndex (data : Word) : Statement (.wrTxConsumeIndex data) := show decodeWord (busWord .write 0x12C) ≠ .illegal by decide

theorem rdRxFilterCtrl : Statement (.rdRxFilterCtrl) := show decodeWord (busWord .read 0x200) ≠ .illegal by decide

theorem wrRxFilterCtrl (data : Word) : Statement (.wrRxFilterCtrl data) := show decodeWord (busWord .write 0x200) ≠ .illegal by decide

theorem rdRxFilterWoLStatus : Statement (.rdRxFilterWoLStatus) := show decodeWord (busWord .read 0x204) ≠ .illegal by decide

theorem wrRxFilterWoLStatus (data : Word) : Statement (.wrRxFilterWoLStatus data) := show decodeWord (busWord .write 0x204) ≠ .illegal by decide

theorem rdRxFilterWoLClear : Statement (.rdRxFilterWoLClear) := show decodeWord (busWord .read 0x208) ≠ .illegal by decide

theorem wrRxFilterWoLClear (data : Word) : Statement (.wrRxFilterWoLClear data) := show decodeWord (busWord .write 0x208) ≠ .illegal by decide

theorem rdHashFilterL : Statement (.rdHashFilterL) := show decodeWord (busWord .read 0x210) ≠ .illegal by decide

theorem wrHashFilterL (data : Word) : Statement (.wrHashFilterL data) := show decodeWord (busWord .write 0x210) ≠ .illegal by decide

theorem rdHashFilterH : Statement (.rdHashFilterH) := show decodeWord (busWord .read 0x214) ≠ .illegal by decide

theorem wrHashFilterH (data : Word) : Statement (.wrHashFilterH data) := show decodeWord (busWord .write 0x214) ≠ .illegal by decide

theorem rdIntStatus : Statement (.rdIntStatus) := show decodeWord (busWord .read 0xFE0) ≠ .illegal by decide

theorem wrIntStatus (data : Word) : Statement (.wrIntStatus data) := show decodeWord (busWord .write 0xFE0) ≠ .illegal by decide

theorem rdIntEnable : Statement (.rdIntEnable) := show decodeWord (busWord .read 0xFE4) ≠ .illegal by decide

theorem wrIntEnable (data : Word) : Statement (.wrIntEnable data) := show decodeWord (busWord .write 0xFE4) ≠ .illegal by decide

theorem rdIntClear : Statement (.rdIntClear) := show decodeWord (busWord .read 0xFE8) ≠ .illegal by decide

theorem wrIntClear (data : Word) : Statement (.wrIntClear data) := show decodeWord (busWord .write 0xFE8) ≠ .illegal by decide

theorem rdIntSet : Statement (.rdIntSet) := show decodeWord (busWord .read 0xFEC) ≠ .illegal by decide

theorem wrIntSet (data : Word) : Statement (.wrIntSet data) := show decodeWord (busWord .write 0xFEC) ≠ .illegal by decide

theorem initRxRing : Statement (.initRxRing) := show decodeWord (opWord 0x01) ≠ .illegal by decide

theorem initTxRing : Statement (.initTxRing) := show decodeWord (opWord 0x02) ≠ .illegal by decide

theorem writeTxPacket (src : Word) (len : Word) : Statement (.writeTxPacket src len) := show decodeWord (opWord 0x03) ≠ .illegal by decide

theorem readRxPacket (dst : Word) (len : Word) : Statement (.readRxPacket dst len) := show decodeWord (opWord 0x04) ≠ .illegal by decide

theorem advanceConsume : Statement (.advanceConsume) := show decodeWord (opWord 0x05) ≠ .illegal by decide

theorem advanceProduce : Statement (.advanceProduce) := show decodeWord (opWord 0x06) ≠ .illegal by decide

theorem checkReceiveIndex : Statement (.checkReceiveIndex) := show decodeWord (opWord 0x07) ≠ .illegal by decide

theorem checkTransmitIndex : Statement (.checkTransmitIndex) := show decodeWord (opWord 0x08) ≠ .illegal by decide

theorem writePhy (reg : Nat) (value : Nat) : Statement (.writePhy reg value) := show decodeWord (opWord 0x10) ≠ .illegal by decide

theorem readPhy (reg : Nat) : Statement (.readPhy reg) := show decodeWord (opWord 0x11) ≠ .illegal by decide

theorem detectPhy : Statement (.detectPhy) := show decodeWord (opWord 0x12) ≠ .illegal by decide

theorem checkStatus (kind : Word) : Statement (.checkStatus kind) := show decodeWord (opWord 0x13) ≠ .illegal by decide

theorem setMode (mode : Word) : Statement (.setMode mode) := show decodeWord (opWord 0x14) ≠ .illegal by decide

theorem updateStatus : Statement (.updateStatus) := show decodeWord (opWord 0x15) ≠ .illegal by decide

theorem init (mac : List Byte) (mode : Word) : Statement (.init mac mode) := show decodeWord (opWord 0x20) ≠ .illegal by decide

theorem deinit : Statement (.deinit) := show decodeWord (opWord 0x21) ≠ .illegal by decide

theorem setHashFilter (addr : List Byte) (enable : Nat) : Statement (.setHashFilter addr enable) := show decodeWord (opWord 0x22) ≠ .illegal by decide

theorem setupCallback (typeMask : Word) (fn : Option CallbackId) : Statement (.setupCallback typeMask fn) := show decodeWord (opWord 0x30) ≠ .illegal by decide

theorem dispatch : Statement (.dispatch) := show decodeWord (opWord 0x31) ≠ .illegal by decide

theorem crc32 (data : List Byte) : Statement (.crc32 data) := show decodeWord (opWord 0x40) ≠ .illegal by decide

theorem memRead32 (addr : Word) : Statement (.memRead32 addr) := show decodeWord (opWord 0x50) ≠ .illegal by decide

theorem memWrite32 (addr : Word) (value : Word) : Statement (.memWrite32 addr value) := show decodeWord (opWord 0x51) ≠ .illegal by decide

theorem delayMs (n : Word) : Statement (.delayMs n) := show decodeWord (opWord 0x52) ≠ .illegal by decide

theorem beq (imm : Word) (target : Nat) : Statement (.beq imm target) := show decodeWord (opWord 0x60) ≠ .illegal by decide

theorem bne (imm : Word) (target : Nat) : Statement (.bne imm target) := show decodeWord (opWord 0x61) ≠ .illegal by decide

theorem jmp (target : Nat) : Statement (.jmp target) := show decodeWord (opWord 0x62) ≠ .illegal by decide

theorem halt : Statement (.halt) := show decodeWord (opWord 0x63) ≠ .illegal by decide

end Sys2Proof.Laws.LegalWord
end

