-- ==== Sys2Proof/Tests/Slice0.lean ====
section
/-!
SUPPORT. The model's own tests: ill-formed terms, words written out from spec/30_encoding.md, single steps with the results of
spec/95_test_vectors.md, and for every obligation with hypotheses a state and operands that meet them.
-/

namespace Sys2Proof.Tests

open Sys2Proof Sys2Proof.Machine

/-! ### Helpers -/

/-- The state after a command; `none` where it stops. -/
def after (i : Instr) (s : State) : Option State :=
  match exec i s with
  | .next t => some t
  | .fault _ => none
  | .refused _ => none

/-- The fault of a command; `none` where it has none. -/
def stop (i : Instr) (s : State) : Option Fault :=
  match exec i s with
  | .next _ => none
  | .fault f => some f
  | .refused _ => none

/-- The state after an outcome; `none` where it stops. -/
def nextOf (o : Outcome) : Option State :=
  match o with
  | .next t => some t
  | .fault _ => none
  | .refused _ => none

/-- Six octets of zero. -/
def zeroMac : List Byte := [0, 0, 0, 0, 0, 0]

/-- 00:11:22:33:44:55. -/
def mac1a : List Byte := [0x00, 0x11, 0x22, 0x33, 0x44, 0x55]

/-- S1p of spec/95_test_vectors.md: reset, powered. -/
def on : State := { State.reset with powered := true }

/-- The registers of `on`, changed. -/
def onWith (r : Regs) : State := { on with regs := r }

/-- A size-4 RX and TX ring with produce index `p` and consume index `c`, and a Command value. -/
def ring (p c cmd : Word) : State := onWith { Regs.reset with
  rxDescriptorNumber := 3, rxProduceIndex := p, rxConsumeIndex := c
  txDescriptorNumber := 3, txProduceIndex := p, txConsumeIndex := c, command := cmd }

/-- A one-line body that halts. -/
def haltBody : List Line := [⟨0x40000063, []⟩]

/-- IRQ at the first line of a callback body of ordinal 0, with an operation in progress. -/
def inBody (op : List OpFrame) : State :=
  { on with turn := .irq, irq := .running 0 (.body 0 0 0 op), bodies := [haltBody] }

/-- FG in an operation. -/
def inOp (op : List OpFrame) : State := { on with fgOp := op }

/-- A callback at operation `op` while FG stands at `fg`. -/
def split (fg op : List OpFrame) : State := { inBody op with fgOp := fg }

/-- An offer of a broadcast frame of `n` more zero bytes. -/
def bcast (n : Nat) : RxOffer where
  da := Vector.replicate 6 0xFF
  rest := List.replicate n 0
  err := 0
  control := false
  vlan := false
  midInfo := 0
  hashCrc := 0
  bcastHash := false
  overflow := 7

/-! ### Well-formedness: one ill-formed term for each check (R157) -/

theorem test_wf_write_phy_reg : (Instr.writePhy 32 0).wellFormed 0 = false := by decide
theorem test_wf_write_phy_value : (Instr.writePhy 31 65536).wellFormed 0 = false := by decide
theorem test_wf_read_phy : (Instr.readPhy 32).wellFormed 0 = false := by decide
theorem test_wf_init : (Instr.init [1, 2, 3, 4, 5] 0).wellFormed 0 = false := by decide
theorem test_wf_hash_octets : (Instr.setHashFilter [1, 2, 3, 4, 5, 6, 7] 1).wellFormed 0 = false := by decide
theorem test_wf_hash_flag : (Instr.setHashFilter mac1a 2).wellFormed 0 = false := by decide
theorem test_wf_labels : (Instr.beq 0 11).wellFormed 10 = false ∧ (Instr.bne 0 11).wellFormed 10 = false ∧
    (Instr.jmp 11).wellFormed 10 = false := by decide
theorem test_wf_boundaries : (Instr.writePhy 31 65535).wellFormed 0 = true ∧ (Instr.readPhy 31).wellFormed 0 = true ∧
    (Instr.setHashFilter mac1a 1).wellFormed 0 = true ∧ (Instr.jmp 10).wellFormed 10 = true := by decide

/-! ### Decoding -/

/-- R158: the BUS-R words of the registers below 0x100. -/
theorem test_decode_rd_low : ([(0x00000000, .rdMac1), (0x00000004, .rdMac2), (0x00000008, .rdIpgt), (0x0000000C, .rdIpgr), (0x00000010, .rdClrt),
    (0x00000014, .rdMaxf), (0x00000018, .rdSupp), (0x00000020, .rdMcfg), (0x00000024, .rdMcmd), (0x00000028, .rdMadr),
    (0x0000002C, .rdMwtd), (0x00000030, .rdMrdd), (0x00000034, .rdMind), (0x00000040, .rdSa0), (0x00000044, .rdSa1),
    (0x00000048, .rdSa2)] : List (Nat × Instr)).all (fun p => decodeTableWord 32 p.1 == some p.2) = true := by decide

/-- R158: the BUS-R words of the registers from 0x100. -/
theorem test_decode_rd_high : ([(0x00000100, .rdCommand), (0x00000104, .rdStatus), (0x00000108, .rdRxDescriptor), (0x0000010C, .rdRxStatus),
    (0x00000110, .rdRxDescriptorNumber), (0x00000114, .rdRxProduceIndex), (0x00000118, .rdRxConsumeIndex),
    (0x0000011C, .rdTxDescriptor), (0x00000120, .rdTxStatus), (0x00000124, .rdTxDescriptorNumber),
    (0x00000128, .rdTxProduceIndex), (0x0000012C, .rdTxConsumeIndex), (0x00000200, .rdRxFilterCtrl),
    (0x00000204, .rdRxFilterWoLStatus), (0x00000208, .rdRxFilterWoLClear), (0x00000210, .rdHashFilterL),
    (0x00000214, .rdHashFilterH), (0x00000FE0, .rdIntStatus), (0x00000FE4, .rdIntEnable), (0x00000FE8, .rdIntClear),
    (0x00000FEC, .rdIntSet)] : List (Nat × Instr)).all (fun p => decodeTableWord 32 p.1 == some p.2) = true := by decide

/-- R158: the BUS-W words of the registers below 0x100. -/
theorem test_decode_wr_low : ([(0x80000000, .wrMac1 0), (0x80000004, .wrMac2 0), (0x80000008, .wrIpgt 0), (0x8000000C, .wrIpgr 0),
    (0x80000010, .wrClrt 0), (0x80000014, .wrMaxf 0), (0x80000018, .wrSupp 0), (0x80000020, .wrMcfg 0),
    (0x80000024, .wrMcmd 0), (0x80000028, .wrMadr 0), (0x8000002C, .wrMwtd 0), (0x80000030, .wrMrdd 0),
    (0x80000034, .wrMind 0), (0x80000040, .wrSa0 0), (0x80000044, .wrSa1 0), (0x80000048, .wrSa2 0)] : List (Nat × Instr)).all (fun p => decodeTableWord 32 p.1 == some p.2) = true := by decide

/-- R158: the BUS-W words of the registers from 0x100. -/
theorem test_decode_wr_high : ([(0x80000100, .wrCommand 0), (0x80000104, .wrStatus 0), (0x80000108, .wrRxDescriptor 0),
    (0x8000010C, .wrRxStatus 0), (0x80000110, .wrRxDescriptorNumber 0), (0x80000114, .wrRxProduceIndex 0),
    (0x80000118, .wrRxConsumeIndex 0), (0x8000011C, .wrTxDescriptor 0), (0x80000120, .wrTxStatus 0),
    (0x80000124, .wrTxDescriptorNumber 0), (0x80000128, .wrTxProduceIndex 0), (0x8000012C, .wrTxConsumeIndex 0),
    (0x80000200, .wrRxFilterCtrl 0), (0x80000204, .wrRxFilterWoLStatus 0), (0x80000208, .wrRxFilterWoLClear 0),
    (0x80000210, .wrHashFilterL 0), (0x80000214, .wrHashFilterH 0), (0x80000FE0, .wrIntStatus 0),
    (0x80000FE4, .wrIntEnable 0), (0x80000FE8, .wrIntClear 0), (0x80000FEC, .wrIntSet 0)] : List (Nat × Instr)).all (fun p => decodeTableWord 32 p.1 == some p.2) = true := by decide

/-- R159: the OP words. -/
theorem test_decode_op : ([(0x40000001, .initRxRing), (0x40000002, .initTxRing), (0x40000003, .writeTxPacket 0 0),
    (0x40000004, .readRxPacket 0 0), (0x40000005, .advanceConsume), (0x40000006, .advanceProduce),
    (0x40000007, .checkReceiveIndex), (0x40000008, .checkTransmitIndex), (0x40000010, .writePhy 0 0),
    (0x40000011, .readPhy 0), (0x40000012, .detectPhy), (0x40000013, .checkStatus 0), (0x40000014, .setMode 0),
    (0x40000015, .updateStatus), (0x40000020, .init zeroMac 0), (0x40000021, .deinit),
    (0x40000022, .setHashFilter zeroMac 0), (0x40000030, .setupCallback 0 none), (0x40000031, .dispatch),
    (0x40000040, .crc32 []), (0x40000050, .memRead32 0), (0x40000051, .memWrite32 0 0), (0x40000052, .delayMs 0),
    (0x40000060, .beq 0 0), (0x40000061, .bne 0 0), (0x40000062, .jmp 0), (0x40000063, .halt)] : List (Nat × Instr)).all (fun p => decodeTableWord 32 p.1 == some p.2) = true := by decide

/-- R154, R162: words that are no command's (vectors X3 to X6, X12, X13, X15, X16). -/
theorem test_decode_illegal : ([0xC0000000, 0x00000002, 0x00001000, 0x20000000, 0x40000000, 0x40000009, 0x40000064,
    0x40000140] : List Nat).all (fun w => decodeTableWord 32 w == none) = true := by decide

/-- R164: an encoded line with its arguments. -/
theorem test_encode_hash_filter : encode (.setHashFilter mac1a 1) = ⟨0x40000022, [.bytes mac1a, .num 1]⟩ := by decide

/-! ### Registers (vectors B1 to B44) -/

theorem test_rd_mac1_reset : (after .rdMac1 on).map (·.ret) = some 0x00008000 := by decide
theorem test_wr_mac1_mask : (after (.wrMac1 0xFFFFFFFF) on).map (·.regs.mac1) = some 0x0000CF1F := by decide
theorem test_wr_mac2_mask : (after (.wrMac2 0xFFFFFFFF) on).map (·.regs.mac2) = some 0x000073FF := by decide
theorem test_wr_ipgt_mask : (after (.wrIpgt 0xFFFFFFFF) on).map (·.regs.ipgt) = some 0x0000007F := by decide
theorem test_wr_ipgr_mask : (after (.wrIpgr 0xFFFFFFFF) on).map (·.regs.ipgr) = some 0x00007F7F := by decide
theorem test_wr_clrt_mask : (after (.wrClrt 0xFFFF) on).map (·.regs.clrt) = some 0x00003F0F := by decide
theorem test_wr_supp_mask : (after (.wrSupp 0xFFFFFFFF) on).map (·.regs.supp) = some 0x00000900 := by decide
theorem test_wr_mcfg_mask : (after (.wrMcfg 0xFFFFFFFF) on).map (·.regs.mcfg) = some 0x0000803F := by decide
theorem test_wr_madr_mask : (after (.wrMadr 0xFFFFFFFF) on).map (·.regs.madr) = some 0x00001F1F := by decide
theorem test_wr_sa0_mask : (after (.wrSa0 0x12345678) on).map (·.regs.sa0) = some 0x00005678 := by decide
theorem test_wr_command_resets : (after (.wrCommand 0x78) (ring 2 1 0)).map
    (fun t => (t.regs.command, t.regs.rxProduceIndex, t.regs.rxConsumeIndex, t.regs.mac1)) =
    some (0x00000040, 0, 0, 0x00008000) := by decide
theorem test_wr_command_rx_reset : (after (.wrCommand 0x0263) (ring 2 1 0x0243)).map
    (fun t => (t.regs.command, t.regs.rxProduceIndex, t.regs.rxConsumeIndex, t.regs.txConsumeIndex)) =
    some (0x00000243, 0, 1, 1) := by decide
theorem test_wr_rx_filter_ctrl_mask : (after (.wrRxFilterCtrl 0xFFFFFFFF) on).map (·.regs.rxFilterCtrl) =
    some 0x0000303F := by decide
theorem test_wr_int_enable_mask : (after (.wrIntEnable 0xFFFFFFFF) on).map (·.regs.intEnable) =
    some 0x000030FF := by decide
theorem test_wr_int_set_mask : (after (.wrIntSet 0xFFFFFFFF) on).map (·.regs.intStatus) = some 0x000030FF := by decide
theorem test_wr_int_clear : (after (.wrIntClear 0x0009) (onWith { Regs.reset with intStatus := 0x2009 })).map
    (·.regs.intStatus) = some 0x00002000 := by decide
theorem test_wr_wol_clear : (after (.wrRxFilterWoLClear 0x1BF) (onWith { Regs.reset with rxFilterWoLStatus := 0x0102 })).map
    (·.regs.rxFilterWoLStatus) = some 0 := by decide
theorem test_wr_rx_status_misaligned : stop (.wrRxStatus 0x2007C024) on =
    some (.misaligned (on.site (some 0x10C))) := by decide
theorem test_wr_tx_descriptor_misaligned : stop (.wrTxDescriptor 0x2007C042) on =
    some (.misaligned (on.site (some 0x11C))) := by decide
theorem test_wr_rx_descriptor_enabled : stop (.wrRxDescriptor 0x2007C000) (ring 0 0 1) =
    some (.ringConfigWhileEnabled ((ring 0 0 1).site (some 0x108))) := by decide
theorem test_wr_rx_number_small : stop (.wrRxDescriptorNumber 1) (ring 0 3 0) =
    some (.indexOutOfRange ((ring 0 3 0).site (some 0x110))) := by decide
theorem test_wr_rx_consume_forward : (after (.wrRxConsumeIndex 2) (ring 2 0 1)).map (·.regs.rxConsumeIndex) =
    some 2 := by decide
theorem test_wr_rx_consume_too_far : stop (.wrRxConsumeIndex 3) (ring 2 0 1) =
    some (.ownershipViolation ((ring 2 0 1).site (some 0x118))) := by decide
theorem test_wr_tx_produce_free : (after (.wrTxProduceIndex 3) (ring 2 0 2)).map (·.regs.txProduceIndex) =
    some 3 := by decide
theorem test_wr_tx_produce_full : stop (.wrTxProduceIndex 0) (ring 3 0 2) =
    some (.ownershipViolation ((ring 3 0 2).site (some 0x128))) := by decide
theorem test_rd_mind_idle : (after .rdMind on).map (fun t => t.ret &&& 0xFFFFFFF7) = some 0 := by
  simp [after, exec, execRdMind, answer, busRead, on, State.reset, regWriteOnly, readReg, mindValue, Mii.busy, Mii.reading,
    State.finish, putRet, State.next, goTo, State.log, bitIf, bitMask]
  by_cases h : Config.miiLinkFail 0 = true <;> simp [h]
theorem test_wr_mwtd_starts : (after (.wrMwtd 0x8000) (onWith { Regs.reset with madr := 0x0100 })).map (·.mii) =
    some (.write 1 0 0x8000) := by decide
theorem test_wr_mwtd_in_reset : stop (.wrMwtd 1) (onWith { Regs.reset with mcfg := 0x8020 }) =
    some (.miiInReset ((onWith { Regs.reset with mcfg := 0x8020 }).site (some 0x02C))) := by decide
theorem test_wr_mcmd_scan : stop (.wrMcmd 2) on = some (.refused (on.site (some 0x024))) := by decide
theorem test_wr_mcmd_starts_once :
    (after (.wrMcmd 1) (onWith { Regs.reset with madr := 0x0101 })).map (·.mii) = some (.read 1 1) ∧
    (after (.wrMcmd 1) (onWith { Regs.reset with madr := 0x0101, mcmd := 1 })).map (·.mii) = some .idle := by decide
theorem test_wr_madr_busy : stop (.wrMadr 0x0101) { on with mii := .write 1 0 0x8000 } =
    some (.miiBusyOverlap (State.site { on with mii := .write 1 0 0x8000 } (some 0x028))) := by decide
theorem test_rd_int_status_unpowered : stop .rdIntStatus State.reset =
    some (.unpowered (State.reset.site (some 0xFE0))) := by decide
/-- Vectors F2 and F3: the state records the fault. -/
theorem test_fault_recorded : ∃ f, step { State.reset with prog := [⟨0x00000000, []⟩] } = .fault f ∧ f.reason = .unpowered ∧
    f.site.agent = .fg ∧ f.site.command = some ⟨0, []⟩ ∧ f.site.hist = [.fault .fg .unpowered (some 0)] :=
  ⟨_, rfl, rfl, rfl, rfl, rfl⟩
theorem test_holes : nextOf (runLine ⟨0x00000038, []⟩ on) = none ∧ nextOf (runLine ⟨0x80000FF4, [.num 0]⟩ on) = none := by decide

/-! ### Host memory (vectors H1 to H9) -/

theorem test_mem_write32 (k : Fin 4) : (after (.memWrite32 0x20000000 0x44332211) on).map
    (fun t => Memory.read t.mem (0x20000000 + k)) = some ([0x11#8, 0x22#8, 0x33#8, 0x44#8][k]) := by
  have h : after (.memWrite32 0x20000000 0x44332211) on =
      some ({ on with mem := Memory.writeWord 0x20000000 0x44332211 on.mem }.log
        (.mem .fg 0x20000000 4 .write 0x44332211)).next := rfl
  rw [h]
  simp only [Option.map_some, State.next_mem, State.log_mem]
  rw [Memory.read_writeWord, if_pos (by omega), Nat.add_sub_cancel_left]
  revert k
  decide
theorem test_mem_misaligned : stop (.memWrite32 0x20000002 0) on = some (.misaligned (on.site (some 0x20000002))) := by decide
theorem test_mem_window : stop (.memRead32 0x50000FE0) on = some (.badAddress (on.site (some 0x50000FE0))) := by decide
theorem test_mem_align_first : stop (.memRead32 0x4FFFFFFE) on = some (.misaligned (on.site (some 0x4FFFFFFE))) := by decide
theorem test_delay_ms : after (.delayMs 1000) on =
    some { on with pc := 1, hist := [.delayMs 1000] } := by decide

/-! ### Rings -/

theorem test_check_transmit_full (k : Fin 4) : subMod k 1 4 = ([3, 0, 1, 2][k]) := by revert k; decide
theorem test_tx_control : txControl 60 = 0xC000003B ∧ txControl 1 = 0xC0000000 ∧ txControl 1536 = 0xC00005FF := by decide
theorem test_write_tx_uninitialised : stop (.writeTxPacket 0x20000000 4) State.reset =
    some (.ringNotInitialised (State.reset.site none)) := by decide
theorem test_write_tx_length : stop (.writeTxPacket 0x20000000 1537) { on with txRingInit := true } =
    some (.lengthOutOfRange (on.site none)) := by decide
theorem test_read_rx_empty : stop (.readRxPacket 0x20000100 4) { on with rxRingInit := true } =
    some (.rxRingEmpty (on.site (some 0x118))) := by decide
theorem test_read_rx_null : (after (.readRxPacket 0 64) { ring 1 0 0 with rxRingInit := true }).map
    (fun t => (t.ret, t.pc, t.fgOp)) = some (0, 1, []) := by decide
theorem test_init_rx_ring_enabled : stop .initRxRing (ring 0 0 1) =
    some (.ringConfigWhileEnabled ((ring 0 0 1).site (some 0x100))) := by decide

/-! ### PHY and MAC -/

theorem test_write_phy_madr : (after (.writePhy 0 0x3000) on).map (fun t => (t.regs.madr, t.fgOp)) =
    some (0x0100, [.wpMwtd 0x3000]) := by decide
theorem test_set_mode_values : bmcrValue 0 = some 0x3000 ∧ bmcrValue 1 = some 0x0100 ∧ bmcrValue 2 = some 0x0000 ∧
    bmcrValue 3 = some 0x2100 ∧ bmcrValue 4 = some 0x2000 ∧ bmcrValue 5 = none := by decide
theorem test_set_mode_unsupported : (after (.setMode 5) on).map (·.ret) = some 0xFFFFFFFC := by decide
theorem test_check_status_link : statusResult 0 0x786D = 1 ∧ statusResult 0 0x1049 = 0 ∧
    statusResult 7 0x786D = 0xFFFFFFFF := by decide
theorem test_clock_select : clockSelect 100000000 = 8 ∧ clockSelect 72000000 = 7 ∧ clockSelect 50000000 = 6 ∧
    clockSelect 25000000 = 4 ∧ clockSelect 12000000 = 1 ∧ clockSelect 2000000 = 1 := by decide
theorem test_init_first_step : (after (.init mac1a 0) State.reset).map (fun t => (t.powered, t.drv)) =
    some (true, .resetting) := by decide
theorem test_init_twice : stop (.init mac1a 0) { on with drv := .enabled } =
    some (.initWithoutDeinit (on.site none)) := by decide
theorem test_deinit_unpowered : after .deinit State.reset = some { State.reset with pc := 1 } := by decide
theorem test_hash_filter_first : (after (.setHashFilter mac1a 1) on).map (fun t => t.fgOp.head?) =
    some (some (.seq [.write .hashFilterH 0x2000, .clrBits .command 0x80])) ∨ Config.hashSetsRfc = true := by
  cases h : Config.hashSetsRfc
  · refine Or.inl ?_
    have hc : hashIndex (crc32 mac1a) = 45 := by decide +kernel
    simp only [after, exec, execSetHashFilter, hashFilterSeq, h, hc]
    decide
  · exact Or.inr rfl

/-! ### CRC (R485) -/

theorem test_crc_station : crc32 mac1a = 0x16CFFD0D ∧ hashIndex (crc32 mac1a) = 45 := by decide +kernel
theorem test_crc_bits : crc32 [0x01] = 0x27045F5A ∧ crc32 [0x80] = 0x4AC9A203 ∧ crc32 [] = 0xFFFFFFFF := by decide +kernel
theorem test_crc_broadcast : hashIndex (crc32 (List.replicate 6 0xFF)) = 62 := by decide +kernel

/-! ### Callbacks and dispatch -/

theorem test_mask_ordinal : maskOrdinal 0x0088 = some 3 ∧ maskOrdinal 0x3000 = some 8 ∧ maskOrdinal 0x2000 = some 9 ∧
    maskOrdinal 0x2001 = some 0 ∧ maskOrdinal 0x0100 = none := by decide
theorem test_setup_callback : (after (.setupCallback 0x0009 (some 5)) State.reset).map
    (fun t => (t.cb[0], t.cb[3])) = some (some 5, none) := by decide
theorem test_dispatch_in_fg : stop .dispatch on = some (.forbiddenInContext (on.site none)) := by decide
theorem test_setup_callback_in_body : stop (.setupCallback 1 none) (inBody []) =
    some (.forbiddenInContext ((inBody []).site none)) := by decide
theorem test_line_masked : nextOf (irqStep (onWith { Regs.reset with intStatus := 0x40, intEnable := 0x88 })) =
    some (onWith { Regs.reset with intStatus := 0x40, intEnable := 0x88 }) := by decide
theorem test_wake_clear_without_callback :
    (nextOf (dispatchClear 0x2000 { on with irq := .running 0x2000 .clear })).map (·.irq) =
    some (.running 0x2000 .wolClear) := by decide
theorem test_halt_in_body : (after .halt (inBody [])).map (·.irq) = some (.running 0 .start) := by decide

/-! ### Program control (vectors C1 to C9) -/

/-- FG at line 4 of ten lines with a result. -/
def atLine4 (r : Word) : State := { on with prog := List.replicate 10 ⟨0, []⟩, pc := 4, ret := r }

theorem test_beq : (after (.beq 0 9) (atLine4 0)).map (·.pc) = some 9 ∧ (after (.beq 0 9) (atLine4 1)).map (·.pc) = some 5 := by
  decide
theorem test_bne : (after (.bne 0 9) (atLine4 0)).map (·.pc) = some 5 ∧
    (after (.bne 0 9) (atLine4 0xFFFFFFFB)).map (·.pc) = some 9 := by decide
theorem test_jmp : (after (.jmp 10) (atLine4 0)).map (·.pc) = some 10 ∧
    stop (.jmp 99) (atLine4 0) = some (.illegalCommand ((atLine4 0).site none)) := by decide

/-! ### Hardware agents -/

/-- R505: on a broadcast station address ACCEPT_PERFECT_EN alone accepts a broadcast frame, whatever the draw. -/
theorem test_broadcast_perfect (b : Bool) :
    filterAccepts { Regs.reset with sa0 := 0xFFFF, sa1 := 0xFFFF, sa2 := 0xFFFF, rxFilterCtrl := 0x20 } (bcast 60).da b = true := by
  have h : stationOctets { Regs.reset with sa0 := 0xFFFF, sa1 := 0xFFFF, sa2 := 0xFFFF, rxFilterCtrl := 0x20 } =
      List.replicate 6 0xFF#8 := by
    simp only [stationOctets]; split <;> decide
  simp [filterAccepts, isBroadcast, isGroup, bcast]
  exact h.symm
theorem test_rx_lost_when_full : (rxdmaStep (bcast 60) (onWith { Regs.reset with mac1 := 1, command := 1 })).regs.intStatus =
    7 := by decide
theorem test_wake_step : (wakeStep 0x1FF (onWith { Regs.reset with rxFilterCtrl := 0x1000 })).regs.rxFilterWoLStatus = 0x100 ∧
    (wakeStep 0x1FF (onWith { Regs.reset with rxFilterCtrl := 0x1000 })).regs.intStatus = 0x2000 ∧
    wakeStep 0x1FF (onWith { Regs.reset with rxFilterCtrl := 0x26 }) = onWith { Regs.reset with rxFilterCtrl := 0x26 } := by
  decide
theorem test_mii_write_completes : (miiStep { on with mii := .write 1 0 0x3000 }).hist = [.phyWrite 1 0 0x3000] := by decide

/-! ### Witnesses: for every obligation with hypotheses, a state and operands that meet them -/

/-- The RX and TX windows on: size-2 rings at the memory area, both datapaths enabled, every RX slot the hardware's. -/
def enabled : State := onWith { Regs.reset with
  command := 3, mac1 := 1, rxDescriptor := 0x2007C000, rxStatus := 0x2007C000, rxDescriptorNumber := 1
  txDescriptor := 0x2007C000, txStatus := 0x2007C000, txDescriptorNumber := 1, txProduceIndex := 1 }

/-- No ring being enabled, every aligned word below the register window is accessible. -/
theorem accessible_of_disabled {s : State} {a : Nat} (h : s.regs.command = 0) (h4 : a % 4 = 0) (ha : a < 0x50000000) :
    s.accessible a := by
  refine ⟨h4, by omega, Or.inl (by unfold Config.emacBase; omega), ?_⟩
  simp [hwOwned, rxOwned, txOwned, State.rxOn, State.txOn, h]

theorem witness_DecodeOfEncode : (Instr.setHashFilter mac1a 1).wellFormed 0 = true ∧
    (Instr.beq 0xFFFFFFFF 3).wellFormed 3 = true := by decide
theorem witness_EncodeOfDecode : decode ⟨0x40000022, [.bytes mac1a, .num 1]⟩ = some (.setHashFilter mac1a 1) ∧
    decode ⟨0x80000FEC, [.num 0xFFFFFFFF]⟩ = some (.wrIntSet 0xFFFFFFFF) := by decide
theorem witness_IllegalCommandWords : decodeWord 0xC0000000 = .illegal ∧ decodeWord 0x00001000 = .illegal ∧
    decodeWord 0x00000001 = .illegal ∧ decodeWord 0x40000100 = .illegal ∧ decodeWord 0x40000064 = .illegal := by decide
theorem witness_UnmappedAndRefusedOffsets : on.powered = true ∧
    (0x01C#12).extractLsb' 0 2 = 0#2 ∧ 0x01C#12 ∈ [0x01C#12, 0x158#12, 0x15C#12, 0x160#12, 0x170#12, 0x174#12, 0xFF4#12] ∧
    (0x038#12).extractLsb' 0 2 = 0#2 ∧ (0xFFC#12).extractLsb' 0 2 = 0#2 ∧
    (∀ off ∈ [0x038#12, 0xFFC#12], off ∉ [0x000#12, 0x004#12, 0x008#12, 0x00C#12, 0x010#12, 0x014#12, 0x018#12, 0x01C#12,
      0x020#12, 0x024#12, 0x028#12, 0x02C#12, 0x030#12, 0x034#12, 0x040#12, 0x044#12, 0x048#12, 0x100#12, 0x104#12, 0x108#12,
      0x10C#12, 0x110#12, 0x114#12, 0x118#12, 0x11C#12, 0x120#12, 0x124#12, 0x128#12, 0x12C#12, 0x158#12, 0x15C#12, 0x160#12,
      0x170#12, 0x174#12, 0x200#12, 0x204#12, 0x208#12, 0x210#12, 0x214#12, 0xFE0#12, 0xFE4#12, 0xFE8#12, 0xFEC#12,
      0xFF4#12]) ∧
    (Dir.write = .read ∧ [Arg.num 0] = [] ∨ Dir.write = .write ∧ ∃ v : Word, [Arg.num 0] = [.num v.toNat]) := by
  refine ⟨rfl, by decide, by decide, by decide, by decide, by decide, Or.inr ⟨rfl, 0, rfl⟩⟩
theorem witness_IllFormedArguments : (Instr.jmp 1).wellFormed (curProg on).length = false ∧ opInstr .jmp [] = none ∧
    [Arg.num 0] ≠ [] ∧ (∀ v : Word, [Arg.num (2 ^ 32)] ≠ [.num v.toNat]) ∧ (∀ v : Word, [] ≠ [Arg.num v.toNat]) := by
  refine ⟨by decide, by decide, by decide, fun v h => ?_, fun v h => by cases h⟩
  have := v.isLt
  simp at h
  omega

/-- FG at a HALT line. -/
def atHalt : State := { on with prog := haltBody }

theorem witness_StepRunsDecodedCommand :
    (atHalt.turn = .fg ∧ atHalt.irq = .idle ∧ atHalt.halted = false ∧ atHalt.fgOp = [] ∧
      atHalt.prog[atHalt.pc]? = some ⟨0x40000063, []⟩ ∧ decode ⟨0x40000063, []⟩ = some .halt) ∧
    ((inBody []).turn = .irq ∧ (inBody []).irq = .running 0 (.body 0 0 0 []) ∧
      (bodyOf (inBody []) 0)[0]? = some ⟨0x40000063, []⟩) ∧
    ((inOp [.rpMcmd]).turn = .fg ∧ (inOp [.rpMcmd]).irq = .idle ∧ (inOp [.rpMcmd]).halted = false ∧
      (inOp [.rpMcmd]).fgOp ≠ []) ∧
    ((inBody [.rpMcmd]).turn = .irq ∧ (inBody [.rpMcmd]).irq = .running 0 (.body 0 0 0 (.rpMcmd :: []))) ∧
    decodeTableWord 32 0x40000063 = some .halt := by decide
/-- An unpowered block with IRQ at this position. -/
def offAt (p : IrqPos) : State := { State.reset with irq := .running 1 p }
theorem witness_PowerAndAccessRights : State.reset.powered = false ∧ on.powered = true ∧ State.reset.irq = .idle ∧
    accessedReg (curOp { State.reset with fgOp := [.rpData] }) = some .mrdd ∧
    ((0x038#12).extractLsb' 0 2 = 0#2 ∧ (Dir.read = .read ∧ ([] : List Arg) = [] ∨
      Dir.read = .write ∧ ∃ w : Word, ([] : List Arg) = [.num w.toNat])) ∧
    (offAt .start).powered = false ∧ (offAt .start).irq = .running 1 .start ∧
    (offAt (.readEnable 1)).irq = .running 1 (.readEnable 1) ∧ (offAt .clear).irq = .running 1 .clear ∧
    (offAt .wolClear).irq = .running 1 .wolClear ∧
    State.txRingInit { State.reset with txRingInit := true } = true ∧
    State.rxRingInit { State.reset with rxRingInit := true } = true ∧
    0 < (64#32).toNat ∧ (64#32).toNat ≤ Config.frameBufSize ∧ (0x20000000#32).toNat % 4 = 0 ∧ 31 < 32 ∧ 65535 < 65536 ∧ 1 < 2 ∧
    mac1a.length = 6 ∧ (4#32).toNat ≤ 4 :=
  ⟨rfl, rfl, rfl, rfl, ⟨by decide, Or.inl ⟨rfl, rfl⟩⟩, rfl, rfl, rfl, rfl, rfl, rfl, rfl, by decide, by decide, by decide, by decide,
    by decide, by decide, rfl, by decide⟩
/-- R200: a micro-step and a DISPATCH step on an unpowered block. -/
theorem test_unpowered_steps :
    continueOp { State.reset with fgOp := [.rpData] } =
      .fault (.unpowered (State.site { State.reset with fgOp := [.rpData] } (some 0x030))) ∧
    irqStep (offAt .clear) = .fault (.unpowered ((offAt .clear).site (some 0xFE8))) := ⟨rfl, rfl⟩
theorem witness_MacRegisterAccess : on.powered = true := rfl
theorem witness_FilterAndInterruptRegisterAccess : on.powered = true := rfl
theorem witness_MiiRegisterAccess :
    (on.powered = true ∧ on.mii = .idle ∧ on.regs.mcfg.getLsbD 15 = false ∧ on.regs.mcmd.getLsbD 0 = false ∧
      (1#32).getLsbD 1 = false ∧ (1#32).getLsbD 0 = true ∧
      ¬(on.regs.mcmd.getLsbD 0 = false ∧ (0#32).getLsbD 0 = true)) ∧
    (State.mii { on with mii := .write 1 0 0x8000 } ≠ .idle ∧ (3#32).getLsbD 1 = true) ∧
    ((onWith { Regs.reset with mcfg := 0x8000 }).mii = .idle ∧
      (onWith { Regs.reset with mcfg := 0x8000 }).regs.mcfg.getLsbD 15 = true) := by decide
theorem witness_IndicatorReads : on.powered = true ∧ State.powered { on with mii := .read 1 1 } = true := by decide
theorem witness_CommandWrite : on.powered = true ∧ (8#32).getLsbD 3 = true ∧ (0x30#32).getLsbD 3 = false := by decide
theorem witness_RingConfigurationWrites :
    ((ring 3 0 3).powered = true ∧ (ring 3 0 3).regs.command.getLsbD 0 = true ∧
      (ring 3 0 3).regs.command.getLsbD 1 = true) ∧
    ((ring 3 0 0).regs.command.getLsbD 0 = false ∧ (ring 3 0 0).regs.command.getLsbD 1 = false ∧
      (8#32).extractLsb' 0 2 = 0#2 ∧ (8#32).extractLsb' 0 3 = 0#3 ∧ (9#32).extractLsb' 0 2 ≠ 0#2 ∧
      (12#32).extractLsb' 0 3 ≠ 0#3) ∧
    ((ring 3 0 0).regs.rxProduceIndex.toNat ≤ (3#32).toNat % 65536 ∧
      (ring 3 0 0).regs.rxConsumeIndex.toNat ≤ (3#32).toNat % 65536 ∧
      (ring 3 0 0).regs.txProduceIndex.toNat ≤ (3#32).toNat % 65536 ∧
      (ring 3 0 0).regs.txConsumeIndex.toNat ≤ (3#32).toNat % 65536) ∧
    ((ring 3 0 0).regs.rxProduceIndex.toNat > (2#32).toNat % 65536 ∧
      (ring 3 0 0).regs.txProduceIndex.toNat > (2#32).toNat % 65536) := by decide
/-- The boundaries of R222 and R223: a size-4 ring with P = 2 and C = 0; the new index is the last allowed, the next one, and
the first past the ring. -/
theorem witness_RingIndexWrites : (ring 2 0 3).powered = true ∧ (ring 2 0 3).regs.command.getLsbD 0 = true ∧
    (ring 2 0 3).regs.command.getLsbD 1 = true ∧ (ring 2 0 0).regs.command.getLsbD 0 = false ∧
    (ring 2 0 3).regs.rxDescriptorNumber.toNat % 65536 + 1 = 4 ∧ (ring 2 0 3).regs.txDescriptorNumber.toNat % 65536 + 1 = 4 ∧
    ((4#32).toNat : Int) % 65536 ≥ 4 ∧
    ((2 : Int) - 0) % 4 ≤ (2 - 0) % 4 ∧ ((3 : Int) - 0) % 4 > (2 - 0) % 4 ∧
    ((3 : Int) - 2) % 4 ≤ (0 - 1 - 2) % 4 ∧ ((0 : Int) - 2) % 4 > (0 - 1 - 2) % 4 := by decide
theorem witness_ReadAfterWrite : ∃ t, exec (wrInstr .mac1 0xFFFFFFFF) on = .next t ∧
    ∃ u, exec (wrInstr .rxConsumeIndex 2) (ring 2 0 1) = .next u := ⟨_, rfl, _, rfl⟩
theorem witness_RegisterFrames : (∃ t, exec (rdInstr .mac1) on = .next t) ∧ (∃ t, exec (wrInstr .mac1 1) on = .next t) ∧
    (∀ i ∈ [Instr.writePhy 31 1, .readPhy 31, .detectPhy, .checkStatus 7, .setMode 4, .setMode 5, .updateStatus, .deinit,
      .crc32 [], .init mac1a 0, .setupCallback 1 (some 0)],
      (∃ t, exec i on = .next t) ∧ ∀ (r : Reg) (v : Word), i ≠ wrInstr r v) ∧
    (∃ t, exec .deinit State.reset = .next t) ∧ (∃ t, continueOp (inOp [.rpMcmd]) = .next t) := by
  refine ⟨⟨_, rfl⟩, ⟨_, rfl⟩, fun i hi => ?_, ⟨_, rfl⟩, ⟨_, rfl⟩⟩
  simp only [List.mem_cons, List.not_mem_nil, or_false] at hi
  rcases hi with rfl | rfl | rfl | rfl | rfl | rfl | rfl | rfl | rfl | rfl | rfl <;>
    exact ⟨⟨_, rfl⟩, fun r v h => by cases r <;> cases h⟩
theorem witness_MemoryFrames : (∃ t, exec (.memWrite32 0x20000000 1) on = .next t) ∧
    (∃ t, continueOp (inOp [.seq [.memWrite 0x20000000 1]]) = .next t) ∧
    (∀ b : Nat, storeAddr (curOp (inOp [.seq [.memWrite 0x20000000 1]])) = some b → 0x20000004 < b ∨ b + 4 ≤ 0x20000004) := by
  refine ⟨⟨_, rfl⟩, ⟨_, rfl⟩, fun b h => ?_⟩
  simp [storeAddr, curOp, inOp, on, State.reset] at h
  omega
/-- R120: in a size-4 ring with P = 2 and C = 0, both datapaths on: the hardware owns RX slots 2 and 3 and TX slots 0 and 1. -/
theorem test_slot_owners : [0, 1, 2, 3].map (rxSlotHw (ring 2 0 3)) = [false, false, true, true] ∧
    [0, 1, 2, 3].map (txSlotHw (ring 2 0 3)) = [true, true, false, false] := by decide
/-- R120's clauses at their boundaries: a slot inside C .. P - 1 and the first outside, and no datapath on. -/
theorem witness_HostMemoryAccess_owned : (ring 2 0 3).regs.command.getLsbD 0 = true ∧
    (ring 2 0 3).regs.command.getLsbD 1 = true ∧ on.regs.command.getLsbD 0 = false ∧ on.regs.command.getLsbD 1 = false ∧
    (ring 2 0 3).regs.rxDescriptorNumber.toNat % 65536 + 1 = 4 ∧
    ¬((2 : Int) - 0) % 4 ≤ (1 - 0) % 4 ∧ ((2 : Int) - 0) % 4 ≤ (2 - 0) % 4 ∧
    ((1 : Int) - 0) % 4 < (2 - 0) % 4 ∧ ¬((2 : Int) - 0) % 4 < (2 - 0) % 4 := by decide
theorem witness_HostMemoryAccess :
    ((0x2000000F#32).extractLsb' 0 2 ≠ 0#2) ∧
    ((0x50000000#32).extractLsb' 0 2 = 0#2 ∧ Config.emacBase ≤ (0x50000000#32).toNat + 3 ∧
      (0x50000FFC#32).toNat ≤ Config.emacBase + 0xFFF) ∧
    ((0x4FFFFFFC#32).toNat + 3 < Config.emacBase ∧ Config.emacBase + 0xFFF < (0x50001000#32).toNat ∧
      (0xFFFFFFFC#32).extractLsb' 0 2 = 0#2) ∧
    hwOwned enabled 0x2007C000 = true ∧ hwOwned on 0x2007C000 = false := by
  refine ⟨by decide, by decide, by decide, ?_, by decide⟩
  have : rxOwned enabled 0x2007C000 = true := by
    simp only [rxOwned, Bool.and_eq_true, List.any_eq_true]
    refine ⟨by decide, 0, by decide, by decide, ?_⟩
    simp only [meetsSlot, Bool.or_eq_true]
    exact Or.inl (Or.inl (by decide))
  simp [hwOwned, this]
/-- R557: a program that is HALT alone ends normally at its step, as does one that has run off its end; not while IRQ runs. -/
theorem test_run_ends : atHalt.runEnded = false ∧ (after .halt atHalt).map State.runEnded = some true ∧
    State.runEnded { atHalt with pc := 1 } = true ∧ (inBody []).runEnded = false := by decide
theorem witness_ControlCommands :
    (on.irq = .idle ∧ atHalt.prog.length ≤ (State.pc { atHalt with pc := 1 }) ∧ State.fgOp { atHalt with pc := 1 } = [] ∧
      State.halted { on with halted := true } = true ∧ 1 ≤ atHalt.prog.length) ∧
    ((inBody []).irq = .running 0 (.body 0 0 0 []) ∧ 1 ≤ (bodyOf (inBody []) 0).length) := by decide
theorem witness_Crc32NibbleForm : on.irq = .idle ∧ (∃ c : Word, c = [0x01#8].foldl (fun (c : Word) (b : Byte) =>
    [0, 1, 2, 3, 4, 5, 6, 7].foldl (fun (c : Word) (j : Nat) => (c <<< 1) ^^^
      (if c.getLsbD 31 ^^ b.getLsbD j then 0x04C11DB7#32 else 0#32)) c) 0xFFFFFFFF#32) := ⟨rfl, _, rfl⟩
theorem witness_CrcAffinity : mac1a.length = zeroMac.length := rfl

theorem witness_RxRingInitialised : on.irq = .idle ∧ on.powered = true ∧ (ring 0 0 1).regs.command.getLsbD 0 = true ∧
    on.regs.command.getLsbD 0 = false ∧ on.regs.rxProduceIndex.toNat < Config.nRx ∧
    on.regs.rxConsumeIndex.toNat < Config.nRx ∧ (∀ a, hwOwned on a = false) ∧ 0 < 1 ∧ 1 < Config.nRx := by
  refine ⟨rfl, rfl, by decide, by decide, ?_, ?_, fun a => by simp [hwOwned, rxOwned, txOwned, State.rxOn, State.txOn, on, State.reset, Regs.reset], by decide, ?_⟩ <;>
    simp only [on, State.reset, Regs.reset, Config.nRx] <;> simp
theorem witness_TxRingInitialised : on.irq = .idle ∧ on.powered = true ∧ (ring 0 0 2).regs.command.getLsbD 1 = true ∧
    on.regs.command.getLsbD 1 = false ∧ on.regs.txProduceIndex.toNat < Config.nTx ∧
    on.regs.txConsumeIndex.toNat < Config.nTx ∧ (∀ a, hwOwned on a = false) ∧ 0 < 1 ∧ 1 < Config.nTx := by
  refine ⟨rfl, rfl, by decide, by decide, ?_, ?_, fun a => by simp [hwOwned, rxOwned, txOwned, State.rxOn, State.txOn, on, State.reset, Regs.reset], by decide, ?_⟩ <;>
    simp only [on, State.reset, Regs.reset, Config.nTx] <;> simp

/-- Both rings initialised by the driver, index 0 everywhere, RX produce index `p`. -/
def marked (p : Word) : State := { onWith { Regs.reset with rxProduceIndex := p } with rxRingInit := true, txRingInit := true }

theorem witness_PacketCommandsStart :
    (on.txRingInit = false ∧ on.rxRingInit = false) ∧
    ((marked 0).txRingInit = true ∧ (marked 0).rxRingInit = true ∧ (marked 0).powered = true ∧
      Config.frameBufSize < (1537#32).toNat ∧ (1536#32).toNat ≤ Config.frameBufSize ∧ 0 < (1#32).toNat ∧
      (0x20000002#32).toNat % 4 ≠ 0 ∧ (0x20000000#32).toNat % 4 = 0) ∧
    ((marked 0).regs.rxProduceIndex.toNat = 0 ∧ (marked 1).regs.rxProduceIndex.toNat ≠ 0) ∧
    ((0 + 1) % Config.nTx ≠ (marked 0).regs.txConsumeIndex.toNat ∧
      (0 + 1) % Config.nTx = (State.regs { marked 0 with regs := { Regs.reset with txConsumeIndex := 1 } }).txConsumeIndex.toNat) := by
  have h : (0 + 1) % Config.nTx = 1 := Nat.mod_eq_of_lt (by simp [Config.nTx])
  refine ⟨by decide, by decide, by decide, ?_, ?_⟩ <;> rw [h] <;> decide

theorem witness_TxPacketCopied : ∃ s : State, s.inProgram ∧ s.powered = true ∧ s.txRingInit = true ∧
    0 < (1536#32).toNat ∧ (1536#32).toNat ≤ Config.frameBufSize ∧ (0x20000000#32).toNat % 4 = 0 ∧
    (0 + 1) % Config.nTx ≠ s.regs.txConsumeIndex.toNat ∧
    (Memory.readWord s.mem (txDescBase + 8 * 0)).toNat = 0x20001000 ∧ s.accessible (txDescBase + 8 * 0) ∧
    s.accessible (txDescBase + 8 * 0 + 4) ∧
    (∀ j, j < (1536 + 3) / 4 → s.accessible (0x20000000 + 4 * j) ∧ s.accessible (0x20001000 + 4 * j)) := by
  have hb : txDescBase < 0x2017C004 ∧ txDescBase % 4 = 0 := by
    have := Config.nRxFree.isLt
    unfold txDescBase rxStatBase rxDescBase Config.memBase Config.nRx
    generalize Config.nRxFree.val = x at *
    constructor <;> omega
  have h : (0 + 1) % Config.nTx = 1 := Nat.mod_eq_of_lt (by simp [Config.nTx])
  refine ⟨{ marked 0 with mem := Memory.writeWord txDescBase 0x20001000 [] }, trivial, rfl, rfl, by decide, by decide,
    by decide, by rw [h]; decide, ?_, accessible_of_disabled rfl (by omega) (by omega),
    accessible_of_disabled rfl (by omega) (by omega), fun j hj =>
    ⟨accessible_of_disabled rfl (by omega) (by omega), accessible_of_disabled rfl (by omega) (by omega)⟩⟩
  simp [Memory.readWord_writeWord]

theorem witness_RxPacketCopied : ∃ s : State, s.inProgram ∧ s.powered = true ∧ s.rxRingInit = true ∧
    (1536#32).toNat ≤ Config.frameBufSize ∧ (0x20000000#32) ≠ 0 ∧ (0x20000000#32).toNat % 4 = 0 ∧
    s.regs.rxConsumeIndex.toNat % 65536 = 0 ∧ s.regs.rxProduceIndex.toNat ≠ 0 ∧
    (Memory.readWord s.mem (rxDescBase + 8 * 0)).toNat = 0x20001000 ∧ s.accessible (rxDescBase + 8 * 0) ∧
    (∀ j, j < (1536 + 3) / 4 → s.accessible (0x20001000 + 4 * j) ∧ s.accessible (0x20000000 + 4 * j)) := by
  refine ⟨{ marked 1 with mem := Memory.writeWord rxDescBase 0x20001000 [] }, trivial, rfl, rfl, by decide, by decide,
    by decide, by decide, by decide, ?_, accessible_of_disabled rfl (by decide) (by decide), fun j hj =>
    ⟨accessible_of_disabled rfl (by omega) (by omega), accessible_of_disabled rfl (by omega) (by omega)⟩⟩
  simp [Memory.readWord_writeWord]

/-- Rings of the driver's sizes, with these indices and Command. -/
def driverRings (c p cmd : Word) : State := onWith { Regs.reset with
  rxDescriptorNumber := BitVec.ofNat 32 (Config.nRx - 1), txDescriptorNumber := BitVec.ofNat 32 (Config.nTx - 1)
  rxConsumeIndex := c, rxProduceIndex := p, txConsumeIndex := c, txProduceIndex := p, command := cmd }

theorem driverRings_sizes (c p cmd : Word) :
    (driverRings c p cmd).regs.rxDescriptorNumber.toNat % 65536 + 1 = Config.nRx ∧
    (driverRings c p cmd).regs.txDescriptorNumber.toNat % 65536 + 1 = Config.nTx := by
  have := Config.nRxFree.isLt
  have := Config.nTxFree.isLt
  simp only [driverRings, onWith, BitVec.toNat_ofNat, Config.nRx, Config.nTx]
  omega
theorem witness_IndexAdvance (c p cmd : Word) : (driverRings c p cmd).inProgram ∧ (driverRings c p cmd).powered = true ∧
    (driverRings c p cmd).regs.rxDescriptorNumber.toNat % 65536 + 1 = Config.nRx ∧
    (driverRings c p cmd).regs.txDescriptorNumber.toNat % 65536 + 1 = Config.nTx ∧ 0 < Config.nRx ∧ 0 < Config.nTx ∧
    1 < Config.nTx ∧ (driverRings 0 0 0).regs.command.getLsbD 0 = false ∧ (driverRings 0 0 3).regs.command.getLsbD 0 = true ∧
    (driverRings 1 0 3).regs.command.getLsbD 1 = true ∧ (0 + 1) % Config.nTx = 1 ∧ (0 + 1) % Config.nTx ≠ 0 := by
  have h : (0 + 1) % Config.nTx = 1 := Nat.mod_eq_of_lt (by simp [Config.nTx])
  refine ⟨trivial, rfl, (driverRings_sizes _ _ _).1, (driverRings_sizes _ _ _).2, by simp [Config.nRx], by simp [Config.nTx],
    by simp [Config.nTx], by decide +revert, by decide +revert, by decide +revert, h, by rw [h]; decide⟩
theorem witness_AdvanceWrapsAround : (driverRings 1 1 0).irq = .idle ∧ (driverRings 1 1 0).powered = true ∧
    (driverRings 1 1 0).regs.command.getLsbD 0 = false ∧ (driverRings 1 1 0).regs.command.getLsbD 1 = false ∧
    (driverRings 1 1 0).regs.rxDescriptorNumber.toNat % 65536 + 1 = Config.nRx ∧
    (driverRings 1 1 0).regs.txDescriptorNumber.toNat % 65536 + 1 = Config.nTx ∧
    (driverRings 1 1 0).regs.rxConsumeIndex = BitVec.ofNat 32 1 ∧ 1 < Config.nRx ∧
    (driverRings 1 1 0).regs.txProduceIndex = BitVec.ofNat 32 1 ∧ 1 < Config.nTx :=
  ⟨rfl, rfl, rfl, rfl, (driverRings_sizes _ _ _).1, (driverRings_sizes _ _ _).2, rfl, by simp [Config.nRx], rfl,
    by simp [Config.nTx]⟩
theorem witness_IndexChecks : on.powered = true ∧ on.inProgram ∧ (inBody []).powered = true ∧ (inBody []).inProgram :=
  ⟨rfl, trivial, rfl, trivial⟩

theorem witness_PhyCommandsStart : on.powered = true ∧ on.mii = .idle ∧ on.phySplit = false ∧
    (split [.rpMcmd] []).phySplit = true ∧ (split [.rpMcmd] []).powered = true ∧ 31 < 32 ∧ 65535 < 65536 ∧ 4 < (5#32).toNat ∧
    (4#32).toNat ≤ 4 ∧ State.powered { on with mii := .read 1 1 } = true ∧ State.mii { on with mii := .read 1 1 } ≠ .idle := by
  decide
theorem witness_PhyWriteCompletesOrTimesOut : on.phySplit = false ∧ 31 < 32 ∧ 65535 < 65536 ∧ on.inProgram ∧ on.powered = true ∧ on.mii = .idle ∧
    on.regs.mcfg.getLsbD 15 = false ∧ (onWith { Regs.reset with mcfg := 0x8000 }).inProgram ∧
    (onWith { Regs.reset with mcfg := 0x8000 }).regs.mcfg.getLsbD 15 = true :=
  ⟨rfl, by decide, by decide, trivial, rfl, rfl, rfl, trivial, rfl⟩
theorem witness_PhyReadCompletesOrTimesOut : on.phySplit = false ∧ 31 < 32 ∧ on.inProgram ∧ on.powered = true ∧ on.mii = .idle ∧
    on.regs.mcfg.getLsbD 15 = false ∧ on.regs.mcmd.getLsbD 0 = false ∧
    (onWith { Regs.reset with mcmd := 1 }).regs.mcmd.getLsbD 0 = true ∧
    (onWith { Regs.reset with mcfg := 0x8000 }).regs.mcfg.getLsbD 15 = true ∧
    (onWith { Regs.reset with mcfg := 0x8000 }).regs.mcmd.getLsbD 0 = false ∧
    (∃ v : Half, v = Config.phyRead 1 (BitVec.ofNat 5 31) (readHistory 31 on)) :=
  ⟨rfl, by decide, trivial, rfl, rfl, rfl, rfl, rfl, rfl, rfl, _, rfl⟩
theorem witness_StatusAndIdentityResults : on.phySplit = false ∧ on.inProgram ∧ on.powered = true ∧ on.mii = .idle ∧
    on.regs.mcfg.getLsbD 15 = false ∧ on.regs.mcmd.getLsbD 0 = false ∧
    (∃ r : Half, r = Config.phyRead 1 1 (readHistory 1 on)) := ⟨rfl, trivial, rfl, rfl, rfl, rfl, _, rfl⟩

/-- FG in an operation while a read cycle is in flight. -/
def busyIn (op : List OpFrame) : State := { inOp op with mii := .read 1 1 }

theorem witness_PhyFailurePropagation (op : List OpFrame) : (busyIn op).powered = true ∧ (busyIn op).mii ≠ .idle ∧
    curOp (busyIn op) = op := ⟨rfl, Mii.noConfusion, rfl⟩
/-- Each clause of R708's statement: a callback's access between FG's two writes, and not. -/
theorem witness_PhyFailurePropagation_split (fs : List OpFrame) :
    (split [.rpMcmd] (.rpMadr 1 :: fs)).powered = true ∧ (split [.rpMcmd] (.rpMadr 1 :: fs)).irq ≠ .idle ∧
    (∃ gs, (∃ w, (split [.rpMcmd] fs).fgOp = .wpMwtd w :: gs) ∨ (split [.rpMcmd] fs).fgOp = .rpMcmd :: gs) ∧
    curOp (split [.rpMcmd] (.rpMadr 1 :: fs)) = .rpMadr 1 :: fs ∧
    (split [.rpPoll 0] (.rpMadr 1 :: fs)).mii = .idle ∧ (split [.rpPoll 0] (.rpMadr 1 :: fs)).phySplit = false ∧
    (inOp (.wpMwtd 7 :: fs)).regs.mcfg.getLsbD 15 = false ∧ curOp (inOp (.wpMwtd 7 :: fs)) = .wpMwtd 7 :: fs :=
  ⟨rfl, Irq.noConfusion, ⟨[], Or.inr rfl⟩, rfl, rfl, rfl, by simp [inOp, on, State.reset, Regs.reset], rfl⟩
/-- R708: a callback's READ_PHY faults between FG's MADR and MCMD writes, and not while FG polls. -/
theorem test_split_phy_command :
    stop (.readPhy 2) (split [.rpMcmd] []) = some (.miiBusyOverlap ((split [.rpMcmd] []).site (some 0x028))) ∧
    (after (.readPhy 2) (split [.rpPoll 0] [])).map (·.regs.madr) = some 0x102 := by decide
theorem witness_LinkPollDecides (op : List OpFrame) : (inOp op).powered = true ∧ curOp (inOp op) = op ∧
    (inOp op).regs.mrdd.getLsbD 2 = false ∧
    (State.regs { inOp op with regs := { Regs.reset with mrdd := 4 } }).mrdd.getLsbD 2 = true :=
  ⟨rfl, rfl, by simp [inOp, on, State.reset, Regs.reset], by simp⟩
theorem witness_StatusConfiguresMac (op : List OpFrame) : (inOp op).inProgram ∧ (inOp op).powered = true ∧
    (inOp op).regs.reservedZero ∧ curOp (inOp op) = op :=
  ⟨trivial, rfl, by unfold Regs.reservedZero; simp only [inOp]; decide, rfl⟩

theorem witness_DeinitPowersOff : on.irq = .idle ∧ on.powered = true ∧ State.reset.irq = .idle ∧
    State.reset.powered = false := by decide
theorem witness_HashFilterBit : mac1a.length = 6 ∧ 1 < 2 ∧ on.powered = true ∧ on.inProgram ∧ on.regs.reservedZero :=
  ⟨rfl, by decide, rfl, trivial, by unfold Regs.reservedZero; decide⟩
theorem witness_ClockSelectAndStationAddress : mac1a.length = 6 ∧
    (∃ s : State, s.irq = .idle ∧ s.powered = true ∧ s.fgOp = .seq (stationSeq mac1a) :: .initRing :: .initRx :: []) ∧
    (7 = clockSelect 72000000 ∧ 8 = clockSelect 72500000) :=
  ⟨rfl, ⟨inOp (.seq (stationSeq mac1a) :: .initRing :: .initRx :: []), rfl, rfl, rfl⟩, by decide⟩
theorem witness_InitProgramsTheMac : mac1a.length = 6 ∧ State.reset.irq = .idle ∧ State.reset.drv = .uninitialized ∧
    State.reset.mii = .idle ∧ State.drv { on with drv := .enabled } ≠ .uninitialized := by decide
theorem witness_InitBranchesAndResult (op : List OpFrame) :
    ((inOp op).powered = true ∧ (inOp op).mii = .idle ∧ curOp (inOp op) = op) ∧
    ((busyIn op).powered = true ∧ (busyIn op).mii ≠ .idle ∧ curOp (busyIn op) = op) ∧
    ((inOp op).regs.mrdd &&& 0x00008800 = 0 ∧ (0x8000#32) &&& 0x00008800 ≠ 0 ∧ (0x0800#32) &&& 0x00008800 ≠ 0) ∧
    ([0x3000#16, 0x0100#16, 0x0000#16, 0x2100#16, 0x2000#16][(4#32).toNat]? = some 0x2000 ∧ 4 < (5#32).toNat) ∧
    ((inOp [.seq initTail, .initEnd true]).irq = .idle ∧ (inOp [.seq initTail, .initEnd true]).powered = true ∧
      (inOp [.seq initTail, .initEnd true]).regs.reservedZero ∧
      (inOp [.seq initTail, .initEnd true]).fgOp = [.seq initTail, .initEnd true]) :=
  ⟨⟨rfl, rfl, rfl⟩, ⟨rfl, Mii.noConfusion, rfl⟩,
    ⟨by simp [inOp, on, State.reset, Regs.reset], by decide, by decide⟩, ⟨rfl, by decide⟩,
    ⟨rfl, rfl, by unfold Regs.reservedZero; decide, rfl⟩⟩
/-- Every known identity is read as known from its two halves; -1 in place of the first half never is. -/
theorem witness_InitBranchesAndResult_known (id : Word) (h : id ∈ Config.knownPhyIds) :
    (id >>> 16 ≠ 0xFFFFFFFF ∧ (((id >>> 16) <<< 16) ||| ((id &&& 0x0000FFFF) &&& 0x0000FFFF)) &&& 0xFFFFFFF0 ∈ Config.knownPhyIds) ∧
    ∀ d : Word, ¬((0xFFFFFFFF#32) ≠ 0xFFFFFFFF ∧ (((0xFFFFFFFF#32) <<< 16) ||| d) &&& 0xFFFFFFF0 ∈ Config.knownPhyIds) := by
  refine ⟨⟨fun e => ?_, ?_⟩, fun d hd => hd.1 rfl⟩
  · have := congrArg (·.getLsbD 31) e
    simp at this
  · obtain ⟨x, _, rfl⟩ := List.mem_map.1 h
    have e : (((x &&& Config.phyIdMask) >>> 16 <<< 16) ||| ((x &&& Config.phyIdMask) &&& 0x0000FFFF &&& 0x0000FFFF)) &&& 0xFFFFFFF0 =
        x &&& Config.phyIdMask := by
      unfold Config.phyIdMask
      ext i hi
      interval_cases i <;> simp
    rw [e]; exact h

/-- INIT waits for its first BMCR poll. -/
def polling : State := { inOp [.rpMadr 0, .initPoll mac1a 0 3] with drv := .resetting }

theorem witness_MacEngineTransitions : polling.stageOk ∧ (∃ t, step polling = .next t) ∧ State.reset.stageOk ∧
    (∃ t, step State.reset = .next t) ∧ (inOp [.seq [.powerOff], .deinitDone]).stageOk ∧
    (∃ t, step (inOp [.seq [.powerOff], .deinitDone]) = .next t) := by
  refine ⟨⟨by decide, fun d h => ?_, trivial⟩, ⟨_, rfl⟩, ⟨by decide, fun d h => ?_, trivial⟩, ⟨_, rfl⟩,
    ⟨by decide, fun d h => ?_, trivial⟩, ⟨_, rfl⟩⟩
  · simp only [polling, inOp, initStage] at h
    cases h
    rfl
  · cases h
  · cases h

theorem witness_CallbackRegistration :
    (State.reset.irq = .idle ∧ [0, 1, 2, 3, 4, 5, 6, 7, 12, 13][(9 : Fin 10).val]? = some 13 ∧
      (0x2000#32).getLsbD 13 = true ∧
      (∀ (k : Nat) (c : Nat), k < (9 : Fin 10).val → [0, 1, 2, 3, 4, 5, 6, 7, 12, 13][k]? = some c →
        (0x2000#32).getLsbD c = false)) ∧
    (∀ b ∈ [0, 1, 2, 3, 4, 5, 6, 7, 12, 13], (0xFFFFCF00#32).getLsbD b = false) := by
  refine ⟨⟨rfl, by decide, by decide, fun k c hk hc => ?_⟩, by decide⟩
  have : k = 0 ∨ k = 1 ∨ k = 2 ∨ k = 3 ∨ k = 4 ∨ k = 5 ∨ k = 6 ∨ k = 7 ∨ k = 8 := by simp at hk; omega
  rcases this with rfl | rfl | rfl | rfl | rfl | rfl | rfl | rfl | rfl <;> simp at hc <;> subst hc <;> decide
theorem witness_ForegroundOnlyCommands : (inBody []).irq ≠ .idle ∧ zeroMac.length = 6 ∧ on.irq = .idle ∧
    (∃ st n id pc op, (inBody []).irq = .running st (.body n id pc op)) :=
  ⟨by decide, rfl, rfl, _, _, _, _, _, rfl⟩
theorem witness_DispatchSteps (pos : IrqPos) : (∃ s : State, s.powered = true ∧ s.irq = .running 0x2009 pos) ∧
    (0x9#32) &&& 0x88 ≠ 0 ∧ (0x40#32) &&& 0x88 = 0 :=
  ⟨⟨{ on with irq := .running 0x2009 pos }, rfl, rfl⟩, by decide, by decide⟩

/-- Callback 0 registered at ordinal 8 and at ordinal 9. -/
def registered (bodies : List (List Line)) : State :=
  { on with cb := (on.cb.set 8 (some 0)).set 9 (some 0), bodies := bodies }

theorem witness_DispatchOrder :
    ((none : Option (Fin 10)) = none ∧ scan [0, 1, 2, 3, 4, 5, 6, 7, 8] 0x3001 = scan [0, 1, 2, 3, 4, 5, 6, 7, 8] 0x3001) ∧
    (some (7 : Fin 10) = some 7 ∧ (7 : Fin 10) ≠ 9) ∧
    ((∀ n, some (7 : Fin 10) = some n → n < (8 : Fin 10)) ∧ (8 : Fin 10) ≠ 9 ∧ (0x3001#32).getLsbD (bitOf 8) = true ∧
      (registered [haltBody]).cb[(8 : Fin 10)] = some 0 ∧
      (∀ j : Fin 10, j < 8 → (0x3001#32).getLsbD (bitOf j) = true → (registered [haltBody]).cb[j] = none)) ∧
    (bodyOf (registered [haltBody]) 0 ≠ [] ∧ bodyOf (registered []) 0 = []) ∧
    ((∀ k : Fin 10, k ≠ 9 → (0x2001#32).getLsbD (bitOf k) = true → (registered []).cb[k] = none) ∧
      (0x2001#32).getLsbD 13 = true ∧ (1#32).getLsbD 13 = false) ∧
    on.cb[(9 : Fin 10)] = none ∧ (registered []).cb[(9 : Fin 10)] = some 0 := by
  refine ⟨⟨rfl, rfl⟩, by decide, ⟨by decide, by decide, by decide, by decide, by decide⟩, by decide, by decide, by decide,
    by decide⟩

/-- Status bits of ordinals 0, 3 and 9, callbacks at 0 and 9. -/
def twoCallbacks : State :=
  { onWith { Regs.reset with intStatus := 0x2009, intEnable := 0x2009 } with
    cb := (on.cb.set 0 (some 0)).set 9 (some 1), bodies := [haltBody, haltBody] }

theorem witness_DispatchServesBothCallbacks : twoCallbacks.irq = .idle ∧ twoCallbacks.powered = true ∧
    twoCallbacks.regs.intStatus = 0x00002009 ∧ twoCallbacks.regs.intEnable &&& 0x00002009 = 0x00002009 ∧
    (∀ k : Fin 10, twoCallbacks.cb[k] = if k = 0 then some 0 else if k = 9 then some 1 else none) ∧
    bodyOf twoCallbacks 0 = [⟨0x40000063, []⟩] ∧ bodyOf twoCallbacks 1 = [⟨0x40000063, []⟩] := by decide
theorem witness_InterruptEntryAndReturn :
    (twoCallbacks.irq = .idle ∧ twoCallbacks.powered = true ∧
      twoCallbacks.regs.intStatus &&& twoCallbacks.regs.intEnable &&& 0x000030FF ≠ 0) ∧
    (on.irq = .idle ∧ on.regs.intStatus &&& on.regs.intEnable &&& 0x000030FF = 0) ∧ (inBody []).irq ≠ .idle ∧
    (∃ t, irqStep { on with irq := .running 0 .done } = .next t ∧ State.irq { on with irq := .running 0 .done } ≠ .idle ∧
      t.irq = .idle) ∧ (∃ t, fgStep on = .next t) :=
  ⟨by decide, by decide, by decide, ⟨_, rfl, by decide, rfl⟩, _, rfl⟩

/-- An enabled receiver with a size-4 ring and this filter. -/
def receiver (rfc p : Word) : State := onWith { Regs.reset with
  command := 1, mac1 := 1, rxDescriptorNumber := 3, rxProduceIndex := p, rxFilterCtrl := rfc
  rxDescriptor := 0x2007C000, rxStatus := 0x2007C010 }

/-- The window of the ring memory area is at least this large, whatever the ring sizes. -/
theorem inDmaRegion_of_low {a n : Nat} (h : 0x2007C000 ≤ a) (hn : a + n ≤ 0x2007C000 + 6192) : inDmaRegion a n = true := by
  have hr : Config.nRx ≥ 2 := by unfold Config.nRx; omega
  have ht : Config.nTx ≥ 2 := by unfold Config.nTx; omega
  unfold inDmaRegion ringAreaEnd txBufBase rxBufBase txStatBase txDescBase rxStatBase rxDescBase Config.memBase
    Config.frameBufSize
  generalize Config.nRx = r at hr
  generalize Config.nTx = t at ht
  simp only [Bool.and_eq_true, decide_eq_true_eq]
  omega

/-- A memory in which the descriptor, the status entry and the buffer of slot 0 lie in DMA_REGION. -/
theorem depositable : ∃ m : Memory, (Memory.readWord m 0x2007C000).toNat = 0x2007C018 ∧
    ∀ n, n ≤ 66 → (inDmaRegion 0x2007C000 8 && inDmaRegion 0x2007C010 8 && inDmaRegion 0x2007C018 n) = true := by
  refine ⟨Memory.writeWord 0x2007C000 0x2007C018 [], by simp [Memory.readWord_writeWord], fun n hn => ?_⟩
  simp only [Bool.and_eq_true]
  exact ⟨⟨inDmaRegion_of_low (by omega) (by omega), inDmaRegion_of_low (by omega) (by omega)⟩,
    inDmaRegion_of_low (by omega) (by omega)⟩

theorem witness_ReceiveFilter (rfc : Word) : (receiver rfc 0).powered = true ∧
    (receiver rfc 0).regs.command.getLsbD 0 = true ∧ (receiver rfc 0).regs.mac1.getLsbD 0 = true ∧
    (receiver rfc 0).regs.mac1 &&& 0x0000CC00 = 0 ∧ (0 + 1) % (3 + 1) ≠ (receiver rfc 0).regs.rxConsumeIndex.toNat % 65536 ∧
    (receiver rfc 0).rxMidFrame = false ∧ (receiver rfc 0).regs.command.getLsbD 7 = false ∧
    (receiver rfc 0).regs.rxDescriptor.toNat = 0x2007C000 ∧ (receiver rfc 0).regs.rxStatus.toNat = 0x2007C010 ∧
    (∀ k (h : k < 6), (bcast 60).da[k] = 0xFF#8) ∧ (receiver 2 0).regs.rxFilterCtrl.getLsbD 1 = true ∧
    (∃ m : Memory, (Memory.readWord m 0x2007C000).toNat = 0x2007C018 ∧
      ∀ n, n ≤ 66 → (inDmaRegion 0x2007C000 8 && inDmaRegion 0x2007C010 8 && inDmaRegion 0x2007C018 n) = true) ∧
    inDmaRegion 0 8 = false := by
  refine ⟨rfl, by simp [receiver, onWith], by simp [receiver, onWith], by simp [receiver, onWith],
    by simp [receiver, onWith, Regs.reset], rfl, by simp [receiver, onWith], by simp [receiver, onWith],
    by simp [receiver, onWith], fun k h => ?_, by simp [receiver, onWith], depositable, by simp [inDmaRegion, Config.memBase]⟩
  simp [bcast]
/-- A rejected frame, and the same frame with PASS_RX_FILTER. -/
theorem witness_ReceiveFilter_rejected : filterAccepts (receiver 0 0).regs (bcast 60).da (bcast 60).bcastHash = false ∧
    (receiver 0 0).regs.command.getLsbD 7 = false ∧ (receiver 0 0).rxMidFrame = false ∧
    filterAccepts { (receiver 0 0).regs with command := 0x81 } (bcast 60).da (bcast 60).bcastHash = false ∧
    (Regs.command { (receiver 0 0).regs with command := 0x81 }).getLsbD 7 = true ∧
    (Regs.command { (receiver 0 0).regs with command := 0x81 }).getLsbD 0 = true := by
  simp [filterAccepts, isBroadcast, isGroup, bcast, receiver, onWith, on, State.reset]
/-- A receiver in the middle of a frame, with a free descriptor and with a full ring. -/
theorem witness_RxDepositOrLoss_mid (p : Word) :
    State.rxMidFrame { receiver 2 p with rxMidFrame := true, rxRemain := [1, 2] } = true ∧
    State.rxRemain { receiver 2 p with rxMidFrame := true, rxRemain := [1, 2] } ≠ [] ∧
    (0 + 1) % (3 + 1) ≠ (receiver 2 0).regs.rxConsumeIndex.toNat % 65536 ∧
    (3 + 1) % (3 + 1) = (receiver 2 3).regs.rxConsumeIndex.toNat % 65536 := ⟨rfl, by simp, by decide, by decide⟩
theorem witness_RxDepositOrLoss : (rxEnabled on = false) ∧
    ((receiver 2 3).regs.rxProduceIndex.toNat % 65536 = 3 ∧
      (3 + 1) % (3 + 1) = (receiver 2 3).regs.rxConsumeIndex.toNat % 65536) ∧
    ((receiver 2 0).regs.rxProduceIndex.toNat % 65536 = 0 ∧
      (0 + 1) % (3 + 1) ≠ (receiver 2 0).regs.rxConsumeIndex.toNat % 65536 ∧
      (receiver 2 0).rxMidFrame = false ∧ (bcast 60).da.toList ++ (bcast 60).rest ≠ [] ∧
      (!filterAccepts (receiver 2 0).regs (bcast 60).da (bcast 60).bcastHash) = false ∧
      (receiver 2 0).regs.rxDescriptor.toNat = 0x2007C000 ∧ (receiver 2 0).regs.rxStatus.toNat = 0x2007C010) ∧
    (∃ m : Memory, (Memory.readWord m 0x2007C000).toNat = 0x2007C018 ∧
      ∀ n, n ≤ 66 → (inDmaRegion 0x2007C000 8 && inDmaRegion 0x2007C010 8 && inDmaRegion 0x2007C018 n) = true) ∧
    inDmaRegion 0 8 = false := by
  refine ⟨by decide, by decide, ⟨by decide, by decide, by decide, by decide, ?_, by decide, by decide⟩, depositable,
    by simp [inDmaRegion, Config.memBase]⟩
  simp [filterAccepts, isBroadcast, isGroup, bcast, receiver, onWith]

/-- An enabled transmitter with a size-4 ring, one descriptor queued. -/
def sender : State := onWith { Regs.reset with
  mac1 := 0, command := 2, txDescriptorNumber := 3, txProduceIndex := 1, txDescriptor := 0x2007C000, txStatus := 0x2007C010 }

theorem witness_TxSend : (sender.powered = true ∧ sender.regs.command.getLsbD 1 = true ∧
      sender.regs.mac1 &&& 0x0000C300 = 0 ∧
      sender.regs.txConsumeIndex.toNat % 65536 ≠ sender.regs.txProduceIndex.toNat % 65536 ∧
      sender.regs.txDescriptor.toNat = 0x2007C000 ∧ sender.regs.txStatus.toNat = 0x2007C010) ∧
    (∃ m : Memory, (Memory.readWord m 0x2007C000).toNat = 0x2007C018 ∧ ∀ n, n ≤ 2048 →
      (inDmaRegion 0x2007C000 8 && inDmaRegion 0x2007C010 4 && inDmaRegion 0x2007C018 n) = true) ∧
    inDmaRegion 0 8 = false ∧ txEnabled on = false := by
  refine ⟨by decide, ⟨Memory.writeWord 0x2007C000 0x2007C018 [], by simp [Memory.readWord_writeWord], fun n hn => ?_⟩,
    by simp [inDmaRegion, Config.memBase], by decide⟩
  simp only [Bool.and_eq_true]
  exact ⟨⟨inDmaRegion_of_low (by omega) (by omega), inDmaRegion_of_low (by omega) (by omega)⟩,
    inDmaRegion_of_low (by omega) (by omega)⟩
theorem witness_MiiAndWakeSteps : (on.powered = true ∧ State.mii { on with mii := .write 1 0 7 } = .write 1 0 7 ∧
      State.mii { on with mii := .read 1 0 } = .read 1 0 ∧ on.mii = .idle ∧ State.reset.powered = false) ∧
    (∀ b, (0x100#32).getLsbD b = (decide (b < 9) && (0x1FF#9).getLsbD b &&
      decide (b = 8 ∧ (0x1000#32).getLsbD 12 = true ∨ (b < 6 ∨ b = 7) ∧ (0x1000#32).getLsbD 13 = true))) := by
  refine ⟨by decide, fun b => ?_⟩
  by_cases h : b < 9
  · have : b = 0 ∨ b = 1 ∨ b = 2 ∨ b = 3 ∨ b = 4 ∨ b = 5 ∨ b = 6 ∨ b = 7 ∨ b = 8 := by omega
    rcases this with rfl | rfl | rfl | rfl | rfl | rfl | rfl | rfl | rfl <;> decide
  · have : (0x100#32).getLsbD b = false := by
      rcases Nat.lt_or_ge b 32 with hb | hb
      · have := hb
        interval_cases b <;> first | omega | decide
      · exact BitVec.getLsbD_of_ge _ _ hb
    simp [this, h]

theorem witness_MemoryInvariant : Memory.wf on.mem ∧ ∃ t, step on = .next t := ⟨State.reset_wf, _, rfl⟩
theorem witness_RegisterInvariant : on.regs.reservedZero ∧ on.indicesInRange ∧ ∃ t, step on = .next t :=
  ⟨by unfold Regs.reservedZero; decide, by unfold State.indicesInRange; decide, _, rfl⟩
theorem witness_HiddenInvariant : (inBody []).rxFrameOk ∧ (inBody []).miiPowered ∧ (inBody []).bodyOk ∧
    ∃ t, step (inBody []) = .next t :=
  ⟨by simp [State.rxFrameOk, inBody, on, State.reset], by simp [State.miiPowered, inBody, on, State.reset],
    by simp [State.bodyOk, inBody, bodyOf, haltBody], _, rfl⟩
theorem witness_WhatNoStepChanges : (∃ t, step State.reset = .next t) ∧ State.reset.fgHalted = true ∧ State.reset.powered = false ∧
    (∃ t, step { State.reset with turn := .mii } = .next t) ∧ State.turn { State.reset with turn := .mii } ≠ .fg ∧
    (∃ t, step { State.reset with prog := [encode (.init mac1a 0)] } = .next t ∧ t.powered = true) ∧
    (∃ t, step { State.reset with prog := [encode (.setupCallback 1 (some 0))] } = .next t ∧ t.cb ≠ State.reset.cb) ∧
    (∃ f, step { State.reset with prog := [encode .rdMac1] } = .fault f) :=
  ⟨⟨_, rfl⟩, rfl, rfl, ⟨_, rfl⟩, by decide, ⟨_, rfl, rfl⟩, ⟨_, rfl, by decide⟩, ⟨_, rfl⟩⟩
theorem witness_OperationsTerminate : (inOp [.rpMcmd]).inProgram ∧ curOp (inOp [.rpMcmd]) ≠ [] ∧
    ∃ t, continueOp (inOp [.rpMcmd]) = .next t := ⟨trivial, by decide, _, rfl⟩

end Sys2Proof.Tests
end

section
/-!
PROOFS. What a micro-step and a command of a host context can do, said once and finer than `Access` and `Moves` do: which micro-step
stores to memory and where, which command switches the block on or writes the callback table, and by which named move the running
context goes on.
-/

namespace Sys2Proof.Machine

/-! ### Accesses that name the address they may store to -/

/-- An access of a micro-step: it stores only at the address `store`, where there is one, and it neither switches the block on nor
writes the callback table. -/
inductive BlockAccess (store : Option Nat) (s : State) : State → Prop where
  | none : BlockAccess store s s
  | read (r : Reg) (v : Word) (t : State) : busRead r s = .ok (v, t) → BlockAccess store s t
  | write (r : Reg) (v : Word) (t : State) : busWrite r v s = .ok t → BlockAccess store s t
  | memRead (a : Nat) (v : Word) (t : State) : hostRead a s = .ok (v, t) → BlockAccess store s t
  | memWrite (a : Nat) (v : Word) (t : State) : store = some a → hostWrite a v s = .ok t → BlockAccess store s t
  | event (e : Event) : BlockAccess store s (s.log e)
  | powerOff : BlockAccess store s { s with powered := false, mii := .idle }

theorem BlockAccess.access {store : Option Nat} {s t : State} (h : BlockAccess store s t) : Access s t := by
  cases h with
  | none => exact .none
  | read r v _ h => exact .read r v _ h
  | write r v _ h => exact .write r v _ h
  | memRead a v _ h => exact .memRead a v _ h
  | memWrite a v _ _ h => exact .memWrite a v _ h
  | event e => exact .event e
  | powerOff => exact .powerOff

/-- What stores nothing may stand where a store is allowed. -/
theorem BlockAccess.of_none {s t : State} (h : BlockAccess .none s t) (store : Option Nat) : BlockAccess store s t := by
  cases h with
  | none => exact .none
  | read r v _ h => exact .read r v _ h
  | write r v _ h => exact .write r v _ h
  | memRead a v _ h => exact .memRead a v _ h
  | memWrite a v _ hs => cases hs
  | event e => exact .event e
  | powerOff => exact .powerOff

/-- A micro-step's access leaves the callback table. -/
theorem BlockAccess.cb {store : Option Nat} {s t : State} (h : BlockAccess store s t) : t.cb = s.cb := by
  cases h with
  | read r v _ h => rw [(busRead_ok h).2.2.2]; rfl
  | write r v _ h => rw [(busWrite_ok h).2.2.2]; rfl
  | memRead a v _ h => rw [(hostRead_ok h).2.2]; rfl
  | memWrite a v _ _ h => rw [(hostWrite_ok h).2.2]; rfl
  | none | event | powerOff => rfl

/-- A micro-step's access does not switch the block on. -/
theorem BlockAccess.unpowered {store : Option Nat} {s t : State} (h : BlockAccess store s t) (hs : s.powered = false) :
    t.powered = false := by
  cases h with
  | read r v _ h => rw [(busRead_ok h).2.2.2]; exact hs
  | write r v _ h => rw [(busWrite_ok h).2.2.2]; exact hs
  | memRead a v _ h => rw [(hostRead_ok h).2.2]; exact hs
  | memWrite a v _ _ h => rw [(hostWrite_ok h).2.2]; exact hs
  | none | event => exact hs
  | powerOff => rfl

/-- A micro-step's access leaves every byte but the four at `store`. -/
theorem BlockAccess.read_mem {store : Option Nat} {s t : State} (h : BlockAccess store s t) {a : Nat}
    (ha : ∀ b, store = some b → a < b ∨ b + 4 ≤ a) : Memory.read t.mem a = Memory.read s.mem a := by
  cases h with
  | read r v _ h => rw [(busRead_ok h).2.2.2]; rfl
  | write r v _ h => rw [(busWrite_ok h).2.2.2]; rfl
  | memRead b v _ h => rw [(hostRead_ok h).2.2]; rfl
  | memWrite b v _ hb h => rw [(hostWrite_ok h).2.2]; exact Memory.read_writeWord_other _ _ (ha b hb)
  | none | event | powerOff => rfl

/-! ### One micro-step -/

/-- Where it answers, `r` is one access of a micro-step from `s`, then internal moves. -/
def OneAccess (store : Option Nat) (s : State) (r : Except Fault (State × Cont)) : Prop :=
  ∀ x, r = .ok x → ∃ u, BlockAccess store s u ∧ Marks u x.1

section
variable {store : Option Nat} {s : State}

theorem oneAccess_ok {x : State × Cont} (h : Marks s x.1) : OneAccess store s (.ok x) := by
  rintro _ ⟨⟩; exact ⟨s, .none, h⟩

theorem oneAccess_doRead {r : Reg} {k : Word → State → Except Fault (State × Cont)}
    (hk : ∀ v u x, k v u = .ok x → Marks u x.1) : OneAccess store s (doRead r s k) := by
  intro x h
  obtain ⟨v, u, hu, hx⟩ := doRead_ok h
  exact ⟨u, .read r v u hu, hk v u x hx⟩

theorem oneAccess_doWrite {r : Reg} {v : Word} {k : State → State × Cont} (hk : ∀ u, Marks u (k u).1) :
    OneAccess store s (doWrite r v s k) := by
  rintro ⟨t, c⟩ h
  obtain ⟨u, hu, hx⟩ := doWrite_ok h
  exact ⟨u, .write r v u hu, hx ▸ hk u⟩

theorem oneAccess_doAddress {reg : MiiAddr} {k : State → State × Cont} (hk : ∀ u, Marks u (k u).1) :
    OneAccess store s (doAddress reg s k) := by
  rintro ⟨t, c⟩ h
  obtain ⟨_, u, hu, hx⟩ := doAddress_ok h
  exact ⟨u, .write _ _ u hu, hx ▸ hk u⟩

theorem oneAccess_doMemRead {a : Nat} {k : Word → State → State × Cont} (hk : ∀ v u, Marks u (k v u).1) :
    OneAccess store s (doMemRead a s k) := by
  rintro ⟨t, c⟩ h
  obtain ⟨v, u, hu, hx⟩ := doMemRead_ok h
  exact ⟨u, .memRead a v u hu, hx ▸ hk v u⟩

theorem oneAccess_doMemWrite {a : Nat} {v : Word} {k : State → State × Cont} (ha : store = some a)
    (hk : ∀ u, Marks u (k u).1) : OneAccess store s (doMemWrite a v s k) := by
  rintro ⟨t, c⟩ h
  obtain ⟨u, hu, hx⟩ := doMemWrite_ok h
  exact ⟨u, .memWrite a v u ha hu, hx ▸ hk u⟩

end

theorem rxNext_marks (pkt dst len j : Nat) (fs : List OpFrame) (s : State) : Marks s (rxNext pkt dst len j fs s).1 := by
  unfold rxNext
  split
  · exact Marks.refl s
  · exact resume_marks _ _ _

theorem seqStep_oneAccess (m : Micro) (ms : List Micro) (fs : List OpFrame) (s : State) :
    OneAccess (storeAddr (.seq (m :: ms) :: fs)) s (seqStep m ms fs s) := by
  cases m with
  | write r v => exact oneAccess_doWrite (seqRest_marks ms fs)
  | setBits r m => exact oneAccess_doRead fun _ u _ hx => by cases hx; exact Marks.refl u
  | clrBits r m => exact oneAccess_doRead fun _ u _ hx => by cases hx; exact Marks.refl u
  | memWrite a v => exact oneAccess_doMemWrite rfl (seqRest_marks ms fs)
  | delay => exact oneAccess_ok (seqRest_marks ms fs s)
  | powerOff => rintro _ ⟨⟩; exact ⟨_, .powerOff, seqRest_marks ms fs _⟩

/-- A micro-step is one access, which stores only where `storeAddr` says, then internal moves. -/
theorem microStep_oneAccess (fs : List OpFrame) (s : State) : OneAccess (storeAddr fs) s (microStep fs s) := by
  cases fs with
  | nil => exact oneAccess_ok (Marks.refl s)
  | cons f fs =>
    cases f with
    | seq ms =>
      cases ms with
      | nil => exact oneAccess_ok (resume_marks _ _ _)
      | cons m ms => exact seqStep_oneAccess m ms fs s
    | initRx | initTx =>
      refine oneAccess_doRead fun _ u _ hx => ?_
      split at hx <;> cases hx
      exact Marks.refl u
    | txPkt | txRead | rxRead => exact oneAccess_doMemRead fun _ u => Marks.refl u
    | rxPkt c dst len => exact oneAccess_doMemRead fun _ => rxNext_marks _ _ _ _ _
    | txWrite => exact oneAccess_doMemWrite rfl fun u => Marks.refl u
    | txCtl => exact oneAccess_doMemWrite rfl (resume_marks _ _)
    | rxWrite => exact oneAccess_doMemWrite rfl (rxNext_marks _ _ _ _ _)
    | chkRx | chkTx | rpData => exact oneAccess_doRead fun _ _ _ hx => by cases hx; exact resume_marks _ _ _
    | wpMadr | rpMadr => exact oneAccess_doAddress fun u => Marks.refl u
    | wpMwtd | rpMcmd | rpClear => exact oneAccess_doWrite fun u => Marks.refl u
    | wpPoll left =>
      refine oneAccess_doRead fun _ u _ hx => ?_
      split at hx
      · cases hx; exact resume_marks _ _ _
      · cases left <;> cases hx
        exacts [resume_marks _ _ _, Marks.refl u]
    | rpPoll left =>
      refine oneAccess_doRead fun _ u _ hx => ?_
      split at hx
      · cases hx; exact Marks.refl u
      · cases left <;> cases hx
        exacts [resume_marks _ _ _, Marks.refl u]
    | updDelay left =>
      cases left <;> rintro _ ⟨⟩
      · exact ⟨_, .event (.delayMs Config.linkDelayMs), Marks.after (resume_marks _ _ _) ⟨id, id, rfl⟩⟩
      · exact ⟨_, .event _, Marks.refl _⟩
    | _ => exact oneAccess_ok (resume_marks _ _ _)

/-! ### How the running context goes on -/

/-- The moves a command or a micro-step ends with. -/
inductive ContextMove (s : State) : State → Prop where
  | goTo (k : Nat) : ContextMove s (goTo k s)
  | finish (v : Word) : ContextMove s (s.finish v)
  | putOp (fs : List OpFrame) : ContextMove s (putOp fs s)
  | halt : ContextMove s (haltAgent s)
  | dispatch (st v : Word) : s.irq ≠ .idle → ContextMove s (s.setIrq st (.readEnable v))

theorem ContextMove.moves {s t : State} (h : ContextMove s t) : Moves s t := by
  cases h with
  | goTo k => exact goTo_moves k s
  | finish v => exact finish_moves v s
  | putOp fs => exact putOp_moves fs s
  | halt => exact haltAgent_moves s
  | dispatch st v hi => exact setIrq_moves hi

theorem settle_move (x : State × Cont) : ContextMove x.1 (settle x) := by
  obtain ⟨t, fs | v⟩ := x
  · exact .putOp fs
  · exact .finish v

/-- What a micro-step of an operation at the frames `fs` does. -/
def MicroStep (fs : List OpFrame) (s t : State) : Prop :=
  ∃ u v, BlockAccess (storeAddr fs) s u ∧ Marks u v ∧ ContextMove v t

theorem opRun_microStep {fs : List OpFrame} {s t : State} (h : opRun fs s = .next t) : MicroStep fs s t := by
  obtain ⟨x, hx, rfl⟩ := opAnswer_ok h
  obtain ⟨u, hu, hm⟩ := microStep_oneAccess fs s x hx
  exact ⟨u, x.1, hu, hm, settle_move x⟩

/-! ### One command -/

/-- The address a command stores a word to in its first step; `none` where it stores nothing (R241). -/
def commandStore : Instr → Option Nat
  | .memWrite32 addr _ => some addr.toNat
  | _ => none

theorem commandStore_eq_some {i : Instr} {b : Nat} (h : commandStore i = some b) :
    ∃ addr v, i = .memWrite32 addr v ∧ b = addr.toNat := by
  unfold commandStore at h
  split at h <;> cases h
  exact ⟨_, _, rfl, rfl⟩

/-- The access of a command's first step: a micro-step's, or INIT's clock enable, or SETUP_CALLBACK's write of the table. -/
inductive CommandAccess (i : Instr) (s : State) : State → Prop where
  | block (t : State) : BlockAccess (commandStore i) s t → CommandAccess i s t
  | powerOn (mac : List Byte) (mode : Word) : i = .init mac mode → s.irq = .idle → s.drv = .uninitialized →
      CommandAccess i s { s with powered := true, drv := .resetting }
  | setCb (mask : Word) (fn : Option CallbackId) (c : Vector (Option CallbackId) 10) : i = .setupCallback mask fn →
      s.irq = .idle → CommandAccess i s { s with cb := c }

theorem CommandAccess.access {i : Instr} {s t : State} (h : CommandAccess i s t) : Access s t := by
  cases h with
  | block _ hb => exact hb.access
  | powerOn _ _ _ hi hd => exact .powerOn hi hd
  | setCb _ _ c _ hi => exact .setCb c hi

/-- What a command's first step does. -/
def CommandStep (i : Instr) (s t : State) : Prop := ∃ u v, CommandAccess i s u ∧ Marks u v ∧ ContextMove v t

section
variable {i : Instr} {s t : State}

theorem commandStep_move (h : ContextMove s t) : CommandStep i s t := ⟨s, s, .block _ .none, Marks.refl s, h⟩

theorem commandStep_opRun {fs : List OpFrame} (hs : storeAddr fs = none) (h : opRun fs s = .next t) : CommandStep i s t := by
  obtain ⟨u, v, hu, hm, hv⟩ := opRun_microStep h
  rw [hs] at hu
  exact ⟨u, v, .block _ (hu.of_none _), hm, hv⟩

theorem commandStep_busRead {r : Reg} (h : answer (busRead r s) = .next t) : CommandStep i s t := by
  obtain ⟨v, u, hu, rfl⟩ := answer_ok h
  exact ⟨u, u, .block _ (.read r v u hu), Marks.refl u, .finish v⟩

theorem commandStep_busWrite {r : Reg} {v : Word} (h : answerKeep (busWrite r v s) = .next t) : CommandStep i s t := by
  obtain ⟨u, hu, rfl⟩ := answerKeep_ok h
  exact ⟨u, u, .block _ (.write r v u hu), Marks.refl u, .goTo _⟩

theorem commandStep_doRead {r : Reg} {k : Word → State → Except Fault (State × Cont)}
    (hk : ∀ v u x, k v u = .ok x → x.1 = u) (h : opAnswer (doRead r s k) = .next t) : CommandStep i s t := by
  obtain ⟨x, hx, rfl⟩ := opAnswer_ok h
  obtain ⟨v, u, hu, hku⟩ := doRead_ok hx
  obtain rfl := hk v u x hku
  exact ⟨x.1, x.1, .block _ (.read r v _ hu), Marks.refl _, settle_move x⟩

end

theorem storeAddr_hashFilterSeq (addr : List Byte) (enable : Bool) : storeAddr [.seq (hashFilterSeq addr enable)] = none := by
  cases enable <;> rfl

/-- A command that answers a next state does one step of `CommandStep`. -/
theorem exec_commandStep {i : Instr} {s t : State} (h : exec i s = .next t) : CommandStep i s t := by
  cases i <;> simp only [exec, execInitRxRing, execInitTxRing, execWriteTxPacket, execReadRxPacket, execWritePhy,
    execReadPhy, execSetMode, execInit, execDeinit, execSetHashFilter, execSetupCallback, execDispatch, execBeq, execBne,
    execJmp] at h
  case initRxRing | initTxRing =>
    split at h
    · cases h
    · exact commandStep_opRun rfl h
  case writeTxPacket =>
    split at h; · cases h
    split at h; · cases h
    split at h; · cases h
    refine commandStep_doRead (fun v u x hx => ?_) h
    split at hx <;> cases hx
    rfl
  case readRxPacket =>
    split at h; · cases h
    split at h; · cases h
    split at h; · cases h
    refine commandStep_doRead (fun v u x hx => ?_) h
    split at hx
    · cases hx
    · split at hx <;> cases hx <;> rfl
  case advanceConsume | advanceProduce | checkReceiveIndex | checkTransmitIndex =>
    exact commandStep_doRead (fun v u x hx => by cases hx; rfl) h
  case writePhy | readPhy => split at h; exacts [commandStep_opRun rfl h, by cases h]
  case detectPhy | checkStatus | updateStatus => exact commandStep_opRun rfl h
  case setMode =>
    split at h
    · exact commandStep_opRun rfl h
    · cases h; exact commandStep_move (.finish _)
  case init mac mode =>
    split at h; · cases h
    split at h; · cases h
    rename_i hi
    split at h <;> cases h
    rename_i hd
    exact ⟨_, _, .powerOn mac mode rfl (not_not.mp hi) (not_not.mp hd), Marks.refl _, .putOp _⟩
  case deinit =>
    split at h; · cases h
    split at h
    · exact commandStep_opRun rfl h
    · cases h
      exact ⟨s, { s with drv := .uninitialized, link := .unknown }, .block _ .none, ⟨id, id, rfl⟩, .finish 0⟩
  case setHashFilter =>
    split at h
    · exact commandStep_opRun (storeAddr_hashFilterSeq _ _) h
    · cases h
  case setupCallback mask fn =>
    split at h; · cases h
    rename_i hi
    split at h <;> cases h
    · exact commandStep_move (.finish 0)
    · exact ⟨_, _, .setCb mask fn _ rfl (not_not.mp hi), Marks.refl _, .finish 0⟩
  case dispatch =>
    split at h
    · rename_i st hst
      unfold thenRead at h
      split at h <;> cases h
      rename_i v u hu
      refine ⟨_, _, .block _ (.read _ _ _ hu), Marks.refl _, .dispatch st v ?_⟩
      rw [(busRead_ok hu).2.2.2]
      simp [readLogged, hst]
    · cases h
  case crc32 => cases h; exact commandStep_move (.finish _)
  case memRead32 =>
    obtain ⟨v, u, hu, rfl⟩ := answer_ok h
    exact ⟨u, u, .block _ (.memRead _ v u hu), Marks.refl u, .finish v⟩
  case memWrite32 =>
    obtain ⟨u, hu, rfl⟩ := answerKeep_ok h
    exact ⟨u, u, .block _ (.memWrite _ _ u rfl hu), Marks.refl u, .goTo _⟩
  case delayMs => cases h; exact ⟨_, _, .block _ (.event _), Marks.refl _, .goTo _⟩
  case beq | bne =>
    split at h
    · cases h; split; exacts [commandStep_move (.goTo _), commandStep_move (.goTo _)]
    · cases h
  case jmp =>
    split at h <;> cases h
    exact commandStep_move (.goTo _)
  case halt => cases h; exact commandStep_move .halt
  all_goals first | exact commandStep_busRead h | exact commandStep_busWrite h

/-- A step of a host context: none past the end of its program, else of the operation in progress or of the command at its program
counter (R558, R556). -/
theorem contextStep_forms {s t : State} (h : contextStep s = .next t) :
    (curOp s = [] ∧ curLine s = none ∧ t = s) ∨ MicroStep (curOp s) s t ∨
      ∃ l i, curOp s = [] ∧ curLine s = some l ∧ decode l = some i ∧ CommandStep i s t := by
  unfold contextStep at h
  split at h
  · rename_i ho
    split at h
    · rename_i l hl
      obtain ⟨i, hi, he⟩ := runLine_ok h
      exact .inr (.inr ⟨l, i, ho, hl, hi, exec_commandStep he⟩)
    · cases h
      exact .inl ⟨ho, ‹_›, rfl⟩
  · exact .inr (.inl (opRun_microStep h))

end Sys2Proof.Machine
end

section
/-!
PROOFS. What each part of a step leaves of the state: an access, the internal moves, the moves of a context, a step of a hardware
agent; and the memory frames of commands and micro-steps (spec/20_memory.md R101, R241).
-/

namespace Sys2Proof.Machine

/-! ### Frames: the fields each part of a step can change -/

/-- An access adds to the history and writes memory, or writes a register of a powered block, or switches the block off or on, or
writes the callback table. -/
theorem Access.forms {s t : State} (h : Access s t) :
    (∃ m es, t = { s with mem := m, hist := es ++ s.hist }) ∨
    (∃ r v e, s.powered = true ∧ t = (writeEffect r v s).log e) ∨
    t = { s with powered := false, mii := .idle } ∨
    t = { s with powered := true, drv := .resetting } ∨
    ∃ c, t = { s with cb := c } := by
  cases h with
  | none => exact .inl ⟨s.mem, [], rfl⟩
  | read r v _ h => exact .inl ⟨s.mem, [_], (busRead_ok h).2.2.2⟩
  | write r v _ h =>
    obtain ⟨hp, _, _, ht⟩ := busWrite_ok h
    exact .inr (.inl ⟨r, v, _, hp, ht⟩)
  | memRead a v _ h => exact .inl ⟨s.mem, [_], (hostRead_ok h).2.2⟩
  | memWrite a v _ h => exact .inl ⟨_, [_], (hostWrite_ok h).2.2⟩
  | event e => exact .inl ⟨s.mem, [e], rfl⟩
  | powerOff => exact .inr (.inr (.inl rfl))
  | powerOn _ _ => exact .inr (.inr (.inr (.inl rfl)))
  | setCb c _ => exact .inr (.inr (.inr (.inr ⟨c, rfl⟩)))

/-- An access leaves both contexts' positions and results, the programs, the ring marks and the schedule. -/
theorem Access.frame {s t : State} (h : Access s t) :
    t = { s with
      regs := t.regs, powered := t.powered, mii := t.mii, cb := t.cb, drv := t.drv, mem := t.mem, hist := t.hist
      rxMidFrame := t.rxMidFrame, rxRemain := t.rxRemain } := by
  rcases h.forms with ⟨m, es, rfl⟩ | ⟨r, v, e, _, rfl⟩ | rfl | rfl | ⟨c, rfl⟩ <;> rfl

/-- A context's move leaves the block, the memory and the programs. -/
theorem Moves.frame {s t : State} (h : Moves s t) :
    t = { s with
      pc := t.pc, ret := t.ret, fgOp := t.fgOp, halted := t.halted, irq := t.irq, irqRet := t.irqRet, hist := t.hist } := by
  by_cases hi : s.irq = .idle
  · rw [h.1 hi]
  · rw [(h.2 hi).2.2]

/-- What follows an access in a step leaves registers, power, sequencers, callbacks, memory and programs. -/
theorem Marks.moves_frame {s t u : State} (hm : Marks s t) (hv : Moves t u) :
    u = { s with
      rxRingInit := u.rxRingInit, txRingInit := u.txRingInit, drv := u.drv, link := u.link, pc := u.pc, ret := u.ret
      fgOp := u.fgOp, halted := u.halted, irq := u.irq, irqRet := u.irqRet, hist := u.hist } := by
  rw [hv.frame, hm.2.2]

/-! ### Steps of the hardware agents -/

/-- What a hardware agent's step does where it is not without effect: the block is powered, the history grows, and the agent writes its
own registers, memory and, for RXDMA, what it keeps of the frame in progress. -/
inductive HardwareStep (s : State) : State → Prop where
  | rxdma (o : RxOffer) (m : Memory) (p ints : Word) (mid : Bool) (rem : List Byte) (da : Vector Byte 6) (err : BitVec 7)
      (fail : Bool) (es : List Event) : s.turn = .rxdma o → s.powered = true →
      ((mid = true ↔ rem ≠ []) ∨ mid = s.rxMidFrame ∧ rem = s.rxRemain) →
      HardwareStep s { s with
        regs := { s.regs with rxProduceIndex := p, intStatus := ints }
        rxMidFrame := mid, rxRemain := rem, rxDa := da, rxErr := err, rxFail := fail, mem := m, hist := es ++ s.hist }
  | txdma (d : BitVec 10) (m : Memory) (c ints : Word) (es : List Event) : s.turn = .txdma d → s.powered = true →
      HardwareStep s { s with
        regs := { s.regs with txConsumeIndex := c, intStatus := ints }
        mem := m, hist := es ++ s.hist }
  | mii (d : Word) (e : Event) : s.powered = true →
      HardwareStep s { s with regs := { s.regs with mrdd := d }, mii := .idle, hist := e :: s.hist }
  | wake (w ints : Word) : s.powered = true →
      HardwareStep s { s with regs := { s.regs with rxFilterWoLStatus := w, intStatus := ints } }

/-- A deposit that is not stuck drops the bytes it stores from those that remain, and marks whether any are left. -/
theorem rxDeposit_some {o : RxOffer} {s t : State} (h : rxDeposit o s = some t) :
    ∃ m p ints n es, n ≤ s.rxRemain.length ∧ t = { s with
      regs := { s.regs with rxProduceIndex := p, intStatus := ints }
      rxMidFrame := !(n == s.rxRemain.length), rxRemain := s.rxRemain.drop n, mem := m, hist := es ++ s.hist } := by
  unfold rxDeposit at h
  dsimp only at h
  split at h <;> cases h
  exact ⟨_, _, _, _, _, Nat.min_le_right _ _, rfl⟩

theorem drop_mark {α : Type} {n : Nat} {l : List α} (h : n ≤ l.length) : (!(n == l.length)) = true ↔ l.drop n ≠ [] := by
  simp only [Bool.not_eq_true', beq_eq_false_iff_ne, ne_eq, List.drop_eq_nil_iff]
  omega

theorem rxEnabled_powered {s : State} (h : rxEnabled s = true) : s.powered = true := by
  simp only [rxEnabled, Bool.and_eq_true] at h
  exact h.1.1.1

theorem txEnabled_powered {s : State} (h : txEnabled s = true) : s.powered = true := by
  simp only [txEnabled, Bool.and_eq_true] at h
  exact h.1.1.1

theorem rxdmaStep_forms {o : RxOffer} {s : State} (ht : s.turn = .rxdma o) :
    rxdmaStep o s = s ∨ HardwareStep s (rxdmaStep o s) := by
  unfold rxdmaStep
  split
  · exact .inl rfl
  rename_i he
  have hp : s.powered = true := rxEnabled_powered (by simpa using he)
  split
  · exact .inr (.rxdma o _ _ _ false [] _ _ _ [_] ht hp (.inl (by simp)))
  split
  · cases hd : rxDeposit o s with
    | none => exact .inl rfl
    | some t =>
      obtain ⟨m, p, ints, n, es, hn, rfl⟩ := rxDeposit_some hd
      exact .inr (.rxdma o m p ints _ _ _ _ _ es ht hp (.inl (drop_mark hn)))
  split
  · cases hd : rxDeposit o (rxStart o s) with
    | none => exact .inl rfl
    | some t =>
      obtain ⟨m, p, ints, n, es, hn, rfl⟩ := rxDeposit_some hd
      have := HardwareStep.rxdma o m p ints _ _ o.da o.err (!filterAccepts s.regs o.da o.bcastHash)
        (es ++ [.rxFrame o.frame o.err .accepted]) ht hp (.inl (drop_mark hn))
      rw [List.append_assoc] at this
      exact .inr this
  · exact .inr (.rxdma o s.mem _ _ _ _ _ _ _ [_] ht hp (.inr ⟨rfl, rfl⟩))

theorem txdmaStep_forms {d : BitVec 10} {s : State} (ht : s.turn = .txdma d) :
    txdmaStep d s = s ∨ HardwareStep s (txdmaStep d s) := by
  unfold txdmaStep
  split
  · rename_i he
    unfold txSend
    dsimp only
    split
    · exact .inr (.txdma d _ _ _ _ ht (txEnabled_powered he))
    · exact .inl rfl
  · exact .inl rfl

theorem miiStep_forms (s : State) : miiStep s = s ∨ HardwareStep s (miiStep s) := by
  unfold miiStep
  split
  · exact .inl rfl
  rename_i hp
  have hp : s.powered = true := by simpa using hp
  split
  · exact .inl rfl
  · exact .inr (.mii s.regs.mrdd _ hp)
  · exact .inr (.mii _ _ hp)

theorem wakeStep_forms (b : BitVec 9) (s : State) : wakeStep b s = s ∨ HardwareStep s (wakeStep b s) := by
  unfold wakeStep
  split
  · rename_i h
    rw [Bool.and_eq_true] at h
    exact .inr (.wake _ _ h.1)
  · exact .inl rfl

/-- A step of the agent whose turn it is: none, an interrupt entry or return, a host context's, or a powered hardware agent's. -/
inductive StepForm (s : State) : State → Prop where
  | stutter : StepForm s s
  | interrupt (q : Irq) : s.turn = .irq → StepForm s { s with irq := q }
  | fg (t : State) : s.turn = .fg → s.irq = .idle → s.halted = false → contextStep s = .next t → HostStep s t → StepForm s t
  | irq (t : State) : s.turn = .irq → s.irq ≠ .idle → HostStep s t → StepForm s t
  | hardware (t : State) : HardwareStep s t → StepForm s t

theorem StepForm.of_hardware {s t : State} (h : t = s ∨ HardwareStep s t) : StepForm s t := by
  rcases h with rfl | h
  · exact .stutter
  · exact .hardware t h

theorem AgentStep.form {s t : State} (h : AgentStep s t) : StepForm s t := by
  cases h with
  | stutter => exact .stutter
  | fg _ ht hi hh hc hs => exact .fg t ht hi hh hc hs
  | irq _ ht hi hs => exact .irq t ht hi hs
  | entry ht _ _ => exact .interrupt _ ht
  | exit st ht _ => exact .interrupt _ ht
  | rxdma o ht => exact .of_hardware (rxdmaStep_forms ht)
  | txdma d ht => exact .of_hardware (txdmaStep_forms ht)
  | mii ht => exact .of_hardware (miiStep_forms s)
  | wake b ht => exact .of_hardware (wakeStep_forms b s)

/-! ### Memory frames -/

theorem MicroStep.read_mem {fs : List OpFrame} {s t : State} (h : MicroStep fs s t) {a : Nat}
    (ha : ∀ b, storeAddr fs = some b → a < b ∨ b + 4 ≤ a) : Memory.read t.mem a = Memory.read s.mem a := by
  obtain ⟨u, v, hu, hm, hv⟩ := h
  rw [hm.moves_frame hv.moves]
  exact hu.read_mem ha

theorem CommandAccess.read_mem {i : Instr} {s t : State} (h : CommandAccess i s t) {a : Nat}
    (ha : ∀ b, commandStore i = some b → a < b ∨ b + 4 ≤ a) : Memory.read t.mem a = Memory.read s.mem a := by
  cases h with
  | block _ hb => exact hb.read_mem ha
  | powerOn | setCb => rfl

theorem CommandStep.read_mem {i : Instr} {s t : State} (h : CommandStep i s t) {a : Nat}
    (ha : ∀ b, commandStore i = some b → a < b ∨ b + 4 ≤ a) : Memory.read t.mem a = Memory.read s.mem a := by
  obtain ⟨u, v, hu, hm, hv⟩ := h
  rw [hm.moves_frame hv.moves]
  exact hu.read_mem ha

/-- Settles O18: a command and a micro-step each make one access, and an access stores nothing but the word at the address
`commandStore` or `storeAddr` names. -/
theorem memoryFrames : Obligations.MemoryFrames := by
  refine ⟨fun i s t h a ha => (exec_commandStep h).read_mem fun b hb => ?_, fun s t h a ha => ?_⟩
  · obtain ⟨addr, v, hi, rfl⟩ := commandStore_eq_some hb
    exact ha addr v hi
  · exact (opRun_microStep h).read_mem ha

end Sys2Proof.Machine
end

section
/-!
PROOFS. What every step of the machine keeps (spec/10_state.md R81, R84, R86, R78; spec/60_exceptions.md R602, R616): each fact is
proved of an access, of the internal and the context's moves, and of a hardware agent's step, and so holds of every step.
-/

namespace Sys2Proof.Machine

/-! ### The history, the programs and the ring marks -/

/-- The history only grows, the programs stay and the ring marks are not cleared (R84, R552, R78). -/
structure Persists (s t : State) : Prop where
  hist : ∃ es, t.hist = es ++ s.hist
  prog : t.prog = s.prog
  bodies : t.bodies = s.bodies
  rxMark : s.rxRingInit = true → t.rxRingInit = true
  txMark : s.txRingInit = true → t.txRingInit = true

theorem Persists.trans {s t u : State} (h : Persists s t) (h' : Persists t u) : Persists s u := by
  obtain ⟨es, he⟩ := h.hist
  obtain ⟨fs, hf⟩ := h'.hist
  exact ⟨⟨fs ++ es, by rw [hf, he, List.append_assoc]⟩, h'.prog.trans h.prog, h'.bodies.trans h.bodies,
    h'.rxMark ∘ h.rxMark, h'.txMark ∘ h.txMark⟩

theorem Access.persists {s t : State} (h : Access s t) : Persists s t := by
  rcases h.forms with ⟨m, es, rfl⟩ | ⟨r, v, e, _, rfl⟩ | rfl | rfl | ⟨c, rfl⟩
  · exact ⟨⟨es, rfl⟩, rfl, rfl, id, id⟩
  · exact ⟨⟨[e], rfl⟩, rfl, rfl, id, id⟩
  all_goals exact ⟨⟨[], rfl⟩, rfl, rfl, id, id⟩

theorem Marks.persists {s t : State} (h : Marks s t) : Persists s t :=
  ⟨⟨[], by rw [h.2.2]; rfl⟩, by rw [h.2.2], by rw [h.2.2], h.1, h.2.1⟩

theorem Moves.hist {s t : State} (h : Moves s t) : ∃ es, t.hist = es ++ s.hist := by
  by_cases hi : s.irq = .idle
  · exact ⟨[], by rw [h.1 hi]; rfl⟩
  · exact (h.2 hi).1

theorem Moves.persists {s t : State} (h : Moves s t) : Persists s t :=
  ⟨h.hist, by rw [h.frame], by rw [h.frame], fun hs => by rw [h.frame]; exact hs, fun hs => by rw [h.frame]; exact hs⟩

theorem HostStep.persists {s t : State} (h : HostStep s t) : Persists s t := by
  obtain ⟨u, v, ha, hm, hv⟩ := h
  exact (ha.persists.trans hm.persists).trans hv.persists

theorem HardwareStep.persists {s t : State} (h : HardwareStep s t) : Persists s t := by
  cases h with
  | rxdma _ _ _ _ _ _ _ _ _ es | txdma _ _ _ _ es => exact ⟨⟨es, rfl⟩, rfl, rfl, id, id⟩
  | mii _ e => exact ⟨⟨[e], rfl⟩, rfl, rfl, id, id⟩
  | wake => exact ⟨⟨[], rfl⟩, rfl, rfl, id, id⟩

theorem StepForm.persists {s t : State} (h : StepForm s t) : Persists s t := by
  cases h with
  | stutter | interrupt => exact ⟨⟨[], rfl⟩, rfl, rfl, id, id⟩
  | fg _ _ _ _ _ hs | irq _ _ _ hs => exact hs.persists
  | hardware _ hw => exact hw.persists

/-! ### The frame in progress and the management cycle -/

theorem writeEffect_rxFrameOk (r : Reg) (v : Word) {s : State} (h : s.rxFrameOk) : (writeEffect r v s).rxFrameOk := by
  by_cases he : endsFrame r v = true <;> simp_all [State.rxFrameOk, writeEffect]

theorem Access.rxFrameOk {s t : State} (h : Access s t) (hs : s.rxFrameOk) : t.rxFrameOk := by
  rcases h.forms with ⟨m, es, rfl⟩ | ⟨r, v, e, _, rfl⟩ | rfl | rfl | ⟨c, rfl⟩
  case inr.inl => exact writeEffect_rxFrameOk r v hs
  all_goals exact hs

theorem Access.miiPowered {s t : State} (h : Access s t) (hs : s.miiPowered) : t.miiPowered := by
  rcases h.forms with ⟨m, es, rfl⟩ | ⟨r, v, e, hp, rfl⟩ | rfl | rfl | ⟨c, rfl⟩
  · exact hs
  · exact fun _ => hp
  · exact fun hm => absurd rfl hm
  · exact fun _ => rfl
  · exact hs

theorem HostStep.rxFrameOk {s t : State} (h : HostStep s t) (hs : s.rxFrameOk) : t.rxFrameOk := by
  obtain ⟨u, v, ha, hm, hv⟩ := h
  rw [hm.moves_frame hv]
  exact ha.rxFrameOk hs

theorem HostStep.miiPowered {s t : State} (h : HostStep s t) (hs : s.miiPowered) : t.miiPowered := by
  obtain ⟨u, v, ha, hm, hv⟩ := h
  rw [hm.moves_frame hv]
  exact ha.miiPowered hs

theorem HardwareStep.rxFrameOk {s t : State} (h : HardwareStep s t) (hs : s.rxFrameOk) : t.rxFrameOk := by
  cases h with
  | rxdma _ _ _ _ _ _ _ _ _ _ _ _ hr =>
    rcases hr with hr | ⟨rfl, rfl⟩
    · exact hr
    · exact hs
  | txdma | mii | wake => exact hs

theorem HardwareStep.miiPowered {s t : State} (h : HardwareStep s t) : t.miiPowered := by
  cases h with
  | rxdma _ _ _ _ _ _ _ _ _ _ _ hp | txdma _ _ _ _ _ _ hp | wake _ _ hp => exact fun _ => hp
  | mii => exact fun hm => absurd rfl hm

theorem StepForm.rxFrameOk {s t : State} (h : StepForm s t) (hs : s.rxFrameOk) : t.rxFrameOk := by
  cases h with
  | stutter | interrupt => exact hs
  | fg _ _ _ _ _ hh | irq _ _ _ hh => exact hh.rxFrameOk hs
  | hardware _ hw => exact hw.rxFrameOk hs

theorem StepForm.miiPowered {s t : State} (h : StepForm s t) (hs : s.miiPowered) : t.miiPowered := by
  cases h with
  | stutter | interrupt => exact hs
  | fg _ _ _ _ _ hh | irq _ _ _ hh => exact hh.miiPowered hs
  | hardware _ hw => exact hw.miiPowered

/-! ### The program counter of a callback body -/

theorem bodyOk_congr {s t : State} (hi : t.irq = s.irq) (hb : t.bodies = s.bodies) (hs : s.bodyOk) : t.bodyOk := by
  simpa only [State.bodyOk, bodyOf, hi, hb] using hs

theorem scan_bodyOk (ns : List (Fin 10)) (st : Word) (s : State) : (scan ns st s).bodyOk := by
  induction ns generalizing s with
  | nil => simp only [scan]; split <;> trivial
  | cons n ns ih =>
    simp only [scan]
    split
    · split
      · split
        · exact ih _
        · rename_i id _ hne
          exact List.length_pos_iff.mpr hne
      · exact ih s
    · exact ih s

theorem leaveBody_bodyOk (st : Word) (n : Fin 10) (s : State) : (leaveBody st n s).bodyOk := by
  unfold leaveBody
  split
  · trivial
  · exact scan_bodyOk _ _ _

theorem enterWake_bodyOk (st : Word) (s : State) : (enterWake st s).bodyOk := by
  unfold enterWake
  split
  · split
    · trivial
    · rename_i hne
      exact List.length_pos_iff.mpr hne
  · trivial

theorem goTo_bodyOk (k : Nat) {s : State} (hs : s.bodyOk) : (goTo k s).bodyOk := by
  unfold goTo
  split
  · exact hs
  · split
    · assumption
    · exact leaveBody_bodyOk _ _ _
  · exact hs

theorem putRet_bodyOk (v : Word) {s : State} (hs : s.bodyOk) : (putRet v s).bodyOk :=
  bodyOk_congr (putRet_irq v s) (putRet_bodies v s) hs

theorem putOp_bodyOk (fs : List OpFrame) {s : State} (hs : s.bodyOk) : (putOp fs s).bodyOk := by
  unfold putOp
  split
  · exact hs
  · rename_i h
    simp only [State.bodyOk, h] at hs
    exact hs
  · exact hs

theorem haltAgent_bodyOk {s : State} (hs : s.bodyOk) : (haltAgent s).bodyOk := by
  unfold haltAgent
  split
  · exact hs
  · exact leaveBody_bodyOk _ _ _
  · exact hs

theorem ContextMove.bodyOk {s t : State} (h : ContextMove s t) (hs : s.bodyOk) : t.bodyOk := by
  cases h with
  | goTo k => exact goTo_bodyOk k hs
  | finish v => exact goTo_bodyOk _ (putRet_bodyOk v hs)
  | putOp fs => exact putOp_bodyOk fs hs
  | halt => exact haltAgent_bodyOk hs
  | dispatch => trivial

/-- An access and the internal moves after it leave the position, so the context's move alone can change it. -/
theorem bodyOk_of_parts {s u v t : State} (ha : Access s u) (hm : Marks u v) (hv : ContextMove v t) (hs : s.bodyOk) :
    t.bodyOk := by
  refine hv.bodyOk (bodyOk_congr ?_ ?_ hs)
  · rw [hm.2.2, ha.frame]
  · rw [hm.2.2, ha.frame]

theorem runLine_bodyOk {l : Line} {s t : State} (h : runLine l s = .next t) (hs : s.bodyOk) : t.bodyOk := by
  obtain ⟨i, _, he⟩ := runLine_ok h
  obtain ⟨u, v, ha, hm, hv⟩ := exec_commandStep he
  exact bodyOk_of_parts ha.access hm hv hs

theorem contextStep_bodyOk {s t : State} (h : contextStep s = .next t) (hs : s.bodyOk) : t.bodyOk := by
  rcases contextStep_forms h with ⟨_, _, rfl⟩ | ⟨u, v, ha, hm, hv⟩ | ⟨l, i, _, _, _, u, v, ha, hm, hv⟩
  · exact hs
  · exact bodyOk_of_parts ha.access hm hv hs
  · exact bodyOk_of_parts ha.access hm hv hs

theorem irqStep_bodyOk {s t : State} (h : irqStep s = .next t) (hs : s.bodyOk) : t.bodyOk := by
  unfold irqStep at h
  split at h
  · cases h
    split
    · trivial
    · exact hs
  · split at h
    · exact runLine_bodyOk h hs
    · unfold dispatchEnable thenRead at h
      split at h <;> cases h
      dsimp only
      split <;> trivial
    · unfold dispatchClear thenWrite at h
      split at h <;> cases h
      exact scan_bodyOk _ _ _
    · exact contextStep_bodyOk h hs
    · unfold dispatchWolClear thenWrite at h
      split at h <;> cases h
      exact enterWake_bodyOk _ _
    · cases h; trivial

/-- A hardware agent leaves the position of the IRQ agent. -/
theorem bodyOk_of_hardware {s t : State} (h : t = s ∨ HardwareStep s t) (hs : s.bodyOk) : t.bodyOk := by
  rcases h with rfl | h
  · exact hs
  · cases h <;> exact hs

theorem agentStep_bodyOk {s t : State} (h : agentStep s = .next t) (hs : s.bodyOk) : t.bodyOk := by
  unfold agentStep at h
  split at h
  · unfold fgStep at h
    split at h
    · exact contextStep_bodyOk h hs
    · cases h; exact hs
  · exact irqStep_bodyOk h hs
  · cases h; exact bodyOk_of_hardware (rxdmaStep_forms ‹_›) hs
  · cases h; exact bodyOk_of_hardware (txdmaStep_forms ‹_›) hs
  · cases h; exact bodyOk_of_hardware (miiStep_forms s) hs
  · cases h; exact bodyOk_of_hardware (wakeStep_forms _ s) hs

/-! ### The machine's step -/

/-- A step that answers is a step of the agent whose turn it is, after which the schedule names the next. -/
theorem step_next {s t : State} (h : step s = .next t) : ∃ u, agentStep s = .next u ∧ t = passTurn u := by
  unfold step machineStep endStep at h
  split at h <;> cases h
  exact ⟨_, ‹_›, rfl⟩

/-- A step that faults records the fault of the agent's step. -/
theorem step_fault {s : State} {f : Fault} (h : step s = .fault f) : ∃ g, agentStep s = .fault g ∧ f = g.recorded := by
  unfold step machineStep endStep at h
  split at h <;> cases h
  exact ⟨_, ‹_›, rfl⟩

/-- Settles O58: the frame mark and the power of a cycle are kept by every access and every hardware agent's step, and the
body's program counter by every move of the running context. -/
theorem hiddenInvariant : Obligations.HiddenInvariant := by
  intro s t hf hm hb h
  obtain ⟨u, hu, rfl⟩ := step_ok h
  obtain ⟨w, hw, he⟩ := step_next h
  have hbody : w.bodyOk := agentStep_bodyOk hw hb
  exact ⟨hu.form.rxFrameOk hf, hu.form.miiPowered hm, he ▸ hbody⟩

end Sys2Proof.Machine
end

section
/-!
PROOFS. Who writes what (spec/10_state.md R84, R86, R78; spec/60_exceptions.md R602, R616): the callback table, the power, the ring
indices and FG's position change only in the steps that may change them; and the state after reset (R85, R700).
-/

namespace Sys2Proof.Machine

/-! ### The callback table and the power -/

theorem MicroStep.cb {fs : List OpFrame} {s t : State} (h : MicroStep fs s t) : t.cb = s.cb := by
  obtain ⟨u, v, hu, hm, hv⟩ := h
  rw [hm.moves_frame hv.moves]
  exact hu.cb

theorem MicroStep.unpowered {fs : List OpFrame} {s t : State} (h : MicroStep fs s t) (hs : s.powered = false) :
    t.powered = false := by
  obtain ⟨u, v, hu, hm, hv⟩ := h
  rw [hm.moves_frame hv.moves]
  exact hu.unpowered hs

/-- Only SETUP_CALLBACK writes the callback table (R450). -/
theorem CommandStep.setupCallback_of_cb_ne {i : Instr} {s t : State} (h : CommandStep i s t) (hne : t.cb ≠ s.cb) :
    ∃ mask fn, i = .setupCallback mask fn := by
  obtain ⟨u, v, hu, hm, hv⟩ := h
  rw [hm.moves_frame hv.moves] at hne
  cases hu with
  | block _ hb => exact absurd hb.cb hne
  | powerOn => exact absurd rfl hne
  | setCb mask fn _ hi => exact ⟨mask, fn, hi⟩

/-- Only INIT switches the block on (R400). -/
theorem CommandStep.init_of_powered {i : Instr} {s t : State} (h : CommandStep i s t) (hs : s.powered = false)
    (ht : t.powered = true) : ∃ mac mode, i = .init mac mode := by
  obtain ⟨u, v, hu, hm, hv⟩ := h
  rw [hm.moves_frame hv.moves] at ht
  cases hu with
  | block _ hb => exact absurd ((hb.unpowered hs).symm.trans ht) (by decide)
  | powerOn mac mode hi => exact ⟨mac, mode, hi⟩
  | setCb => exact absurd (hs.symm.trans ht) (by decide)

/-- While IRQ runs, a host context's access is a micro-step's. -/
theorem Access.block_of_running {s t : State} (h : Access s t) (hi : s.irq ≠ .idle) : ∃ store, BlockAccess store s t := by
  cases h with
  | none => exact ⟨.none, .none⟩
  | read r v _ h => exact ⟨.none, .read r v _ h⟩
  | write r v _ h => exact ⟨.none, .write r v _ h⟩
  | memRead a v _ h => exact ⟨.none, .memRead a v _ h⟩
  | memWrite a v _ h => exact ⟨some a, .memWrite a v _ rfl h⟩
  | event e => exact ⟨.none, .event e⟩
  | powerOff => exact ⟨.none, .powerOff⟩
  | powerOn hidle => exact absurd hidle hi
  | setCb _ hidle => exact absurd hidle hi

theorem HostStep.cb_of_running {s t : State} (h : HostStep s t) (hi : s.irq ≠ .idle) : t.cb = s.cb := by
  obtain ⟨u, v, ha, hm, hv⟩ := h
  obtain ⟨store, hb⟩ := ha.block_of_running hi
  rw [hm.moves_frame hv]
  exact hb.cb

theorem HostStep.unpowered_of_running {s t : State} (h : HostStep s t) (hi : s.irq ≠ .idle) (hs : s.powered = false) :
    t.powered = false := by
  obtain ⟨u, v, ha, hm, hv⟩ := h
  obtain ⟨store, hb⟩ := ha.block_of_running hi
  rw [hm.moves_frame hv]
  exact hb.unpowered hs

theorem HardwareStep.cb {s t : State} (h : HardwareStep s t) : t.cb = s.cb := by cases h <;> rfl

theorem HardwareStep.powered {s t : State} (h : HardwareStep s t) : s.powered = true := by
  cases h with
  | rxdma _ _ _ _ _ _ _ _ _ _ _ hp | txdma _ _ _ _ _ _ hp | mii _ _ hp | wake _ _ hp => exact hp

/-- FG runs `i` from its start in this step. -/
def FgRuns (s : State) (i : Instr) : Prop :=
  s.turn = .fg ∧ s.irq = .idle ∧ s.fgOp = [] ∧ ∃ l, s.prog[s.pc]? = some l ∧ decode l = some i

/-- A step leaves the callback table and switches nothing on, or is FG's first step of a command. -/
theorem StepForm.command {s t : State} (h : StepForm s t) :
    (t.cb = s.cb ∧ (s.powered = false → t.powered = false)) ∨ ∃ i, FgRuns s i ∧ CommandStep i s t := by
  cases h with
  | stutter | interrupt => exact .inl ⟨rfl, id⟩
  | fg _ ht hi _ hc _ =>
    rcases contextStep_forms hc with ⟨_, _, rfl⟩ | hm | ⟨l, i, ho, hl, hd, hs⟩
    · exact .inl ⟨rfl, id⟩
    · exact .inl ⟨hm.cb, hm.unpowered⟩
    · simp only [curOp, hi] at ho
      simp only [curLine, hi] at hl
      exact .inr ⟨i, ⟨ht, hi, ho, l, hl, hd⟩, hs⟩
  | irq _ _ hi hs => exact .inl ⟨hs.cb_of_running hi, hs.unpowered_of_running hi⟩
  | hardware _ hw => exact .inl ⟨hw.cb, fun hs => absurd (hs.symm.trans hw.powered) (by decide)⟩

theorem StepForm.setupCallback_of_cb_ne {s t : State} (h : StepForm s t) (hne : t.cb ≠ s.cb) :
    ∃ mask fn, FgRuns s (.setupCallback mask fn) := by
  rcases h.command with ⟨hcb, _⟩ | ⟨i, hr, hs⟩
  · exact absurd hcb hne
  · obtain ⟨mask, fn, rfl⟩ := hs.setupCallback_of_cb_ne hne
    exact ⟨mask, fn, hr⟩

theorem StepForm.init_of_powered {s t : State} (h : StepForm s t) (hs : s.powered = false) (ht : t.powered = true) :
    ∃ mac mode, FgRuns s (.init mac mode) := by
  rcases h.command with ⟨_, hp⟩ | ⟨i, hr, hc⟩
  · exact absurd ((hp hs).symm.trans ht) (by decide)
  · obtain ⟨mac, mode, rfl⟩ := hc.init_of_powered hs ht
    exact ⟨mac, mode, hr⟩

/-! ### The ring indices -/

/-- A write of Command resets the hardware's indices or leaves them (R220). -/
theorem commandRegs_hardwareIndices (v : Word) (r : Regs) :
    ((commandRegs v r).rxProduceIndex = r.rxProduceIndex ∨ (commandRegs v r).rxProduceIndex = 0) ∧
    ((commandRegs v r).txConsumeIndex = r.txConsumeIndex ∨ (commandRegs v r).txConsumeIndex = 0) := by
  unfold commandRegs
  cases v.getLsbD 3 <;> cases v.getLsbD 4 <;> cases v.getLsbD 5 <;> simp [Regs.resetHigh, Regs.reset]

/-- No register write but a reset changes the hardware's indices (R202, R220). -/
theorem writeRegs_hardwareIndices (r : Reg) (v : Word) (regs : Regs) :
    ((writeRegs r v regs).rxProduceIndex = regs.rxProduceIndex ∨ (writeRegs r v regs).rxProduceIndex = 0) ∧
    ((writeRegs r v regs).txConsumeIndex = regs.txConsumeIndex ∨ (writeRegs r v regs).txConsumeIndex = 0) := by
  cases r
  case command => exact commandRegs_hardwareIndices v regs
  all_goals exact ⟨.inl rfl, .inl rfl⟩

theorem Access.hardwareIndices {s t : State} (h : Access s t) :
    (t.regs.rxProduceIndex = s.regs.rxProduceIndex ∨ t.regs.rxProduceIndex = 0) ∧
    (t.regs.txConsumeIndex = s.regs.txConsumeIndex ∨ t.regs.txConsumeIndex = 0) := by
  rcases h.forms with ⟨m, es, rfl⟩ | ⟨r, v, e, _, rfl⟩ | rfl | rfl | ⟨c, rfl⟩
  case inr.inl => exact writeRegs_hardwareIndices r v s.regs
  all_goals exact ⟨.inl rfl, .inl rfl⟩

theorem HostStep.hardwareIndices {s t : State} (h : HostStep s t) :
    (t.regs.rxProduceIndex = s.regs.rxProduceIndex ∨ t.regs.rxProduceIndex = 0) ∧
    (t.regs.txConsumeIndex = s.regs.txConsumeIndex ∨ t.regs.txConsumeIndex = 0) := by
  obtain ⟨u, v, ha, hm, hv⟩ := h
  rw [hm.moves_frame hv]
  exact ha.hardwareIndices

/-- RxProduceIndex is RXDMA's, resets apart (R53, R86). -/
theorem StepForm.rxProduceIndex_writer {s t : State} (h : StepForm s t)
    (hne : t.regs.rxProduceIndex ≠ s.regs.rxProduceIndex) : (∃ o, s.turn = .rxdma o) ∨ t.regs.rxProduceIndex = 0 := by
  cases h with
  | stutter | interrupt => exact absurd rfl hne
  | fg _ _ _ _ _ hs | irq _ _ _ hs => exact .inr (hs.hardwareIndices.1.resolve_left hne)
  | hardware _ hw =>
    cases hw with
    | rxdma o _ _ _ _ _ _ _ _ _ ht => exact .inl ⟨o, ht⟩
    | txdma | mii | wake => exact absurd rfl hne

/-- TxConsumeIndex is TXDMA's, resets apart (R59, R86). -/
theorem StepForm.txConsumeIndex_writer {s t : State} (h : StepForm s t)
    (hne : t.regs.txConsumeIndex ≠ s.regs.txConsumeIndex) : (∃ d, s.turn = .txdma d) ∨ t.regs.txConsumeIndex = 0 := by
  cases h with
  | stutter | interrupt => exact absurd rfl hne
  | fg _ _ _ _ _ hs | irq _ _ _ hs => exact .inr (hs.hardwareIndices.2.resolve_left hne)
  | hardware _ hw =>
    cases hw with
    | txdma d _ _ _ _ ht => exact .inl ⟨d, ht⟩
    | rxdma | mii | wake => exact absurd rfl hne

/-- RxConsumeIndex and TxProduceIndex are the host's (R54, R58, R86). -/
theorem StepForm.host_of_hostIndex_ne {s t : State} (h : StepForm s t)
    (hne : t.regs.rxConsumeIndex ≠ s.regs.rxConsumeIndex ∨ t.regs.txProduceIndex ≠ s.regs.txProduceIndex) :
    s.turn = .fg ∨ s.turn = .irq := by
  cases h with
  | stutter => simp at hne
  | interrupt _ ht | irq _ ht => exact .inr ht
  | fg _ ht => exact .inl ht
  | hardware _ hw => cases hw <;> simp at hne

/-- The hardware of an unpowered block has no step (R616). -/
theorem StepForm.eq_of_unpowered {s t : State} (h : StepForm s t) (hp : s.powered = false) (hf : s.turn ≠ .fg)
    (hi : s.turn ≠ .irq) : t = s := by
  cases h with
  | stutter => rfl
  | interrupt _ ht | irq _ ht => exact absurd ht hi
  | fg _ ht => exact absurd ht hf
  | hardware _ hw => exact absurd (hp.symm.trans hw.powered) (by decide)

/-! ### FG after its halt -/

/-- While IRQ runs, a host context's step leaves FG's position and result. -/
theorem HostStep.fg_of_running {s t : State} (h : HostStep s t) (hi : s.irq ≠ .idle) :
    t.pc = s.pc ∧ t.ret = s.ret ∧ t.fgOp = s.fgOp ∧ t.halted = s.halted ∧ t.prog = s.prog := by
  obtain ⟨u, v, ha, hm, hv⟩ := h
  have hiv : v.irq ≠ .idle := by
    rw [hm.2.2, ha.frame]
    exact hi
  rw [(hv.2 hiv).2.2, hm.2.2, ha.frame]
  exact ⟨rfl, rfl, rfl, rfl, rfl⟩

/-- Past the end of its program FG has no step. -/
theorem contextStep_eq_of_end {s t : State} (hi : s.irq = .idle) (ho : s.fgOp = []) (hpc : s.prog.length ≤ s.pc)
    (h : contextStep s = .next t) : t = s := by
  simp only [contextStep, curOp, curLine, hi, ho, List.getElem?_eq_none hpc] at h
  cases h
  rfl

theorem StepForm.fgHalted {s t : State} (h : StepForm s t) (hs : s.fgHalted = true) :
    t.fgHalted = true ∧ t.pc = s.pc ∧ t.ret = s.ret := by
  cases h with
  | stutter | interrupt => exact ⟨hs, rfl, rfl⟩
  | fg _ _ hi hh hc =>
    obtain hh' | ⟨ho, hpc⟩ := fgHalted_iff.1 hs
    · exact absurd (hh.symm.trans hh') (by decide)
    · obtain rfl := contextStep_eq_of_end hi ho hpc hc
      exact ⟨hs, rfl, rfl⟩
  | irq _ _ hi hst =>
    obtain ⟨hpc, hret, hop, hhalt, hprog⟩ := hst.fg_of_running hi
    refine ⟨?_, hpc, hret⟩
    rw [fgHalted_iff, hpc, hop, hhalt, hprog]
    exact fgHalted_iff.1 hs
  | hardware _ hw => cases hw <;> exact ⟨hs, rfl, rfl⟩

/-! ### The obligations -/

/-- Settles O59: each clause from what a step can be (`StepForm`), and the fault record from where a fault is raised
(`agentStep_fault`). -/
theorem whatNoStepChanges : Obligations.WhatNoStepChanges := by
  refine ⟨fun s t h => ?_, fun s f h => ?_⟩
  · obtain ⟨u, hu, rfl⟩ := step_ok h
    have hf := hu.form
    obtain ⟨hist, prog, bodies, rxMark, txMark⟩ := hf.persists
    refine ⟨hist, prog, bodies, hf.fgHalted, rxMark, txMark, fun hne => ?_, fun hs ht => ?_, hf.rxProduceIndex_writer,
      hf.txConsumeIndex_writer, fun hne => hf.host_of_hostIndex_ne (.inl hne), fun hne => hf.host_of_hostIndex_ne (.inr hne),
      fun hp hfg hirq => congrArg passTurn (hf.eq_of_unpowered hp hfg hirq)⟩
    · obtain ⟨mask, fn, ht, hi, ho, l, hl, hd⟩ := hf.setupCallback_of_cb_ne hne
      exact ⟨ht, hi, ho, l, mask, fn, hl, hd⟩
    · obtain ⟨mac, mode, ht, hi, ho, l, hl, hd⟩ := hf.init_of_powered hs ht
      exact ⟨ht, hi, ho, l, mac, mode, hl, hd⟩
  · obtain ⟨g, hg, rfl⟩ := step_fault h
    obtain ⟨hturn, addr, hsite⟩ := agentStep_fault hg
    simp [hturn, hsite, State.site]

/-- The registers after reset have 0 in every reserved bit. -/
theorem reset_reservedZero : State.reset.regs.reservedZero := by
  unfold Regs.reservedZero
  decide

/-- No hardware agent and no interrupt has a step at reset: the block is unpowered. -/
theorem reset_noStep : irqStep State.reset = .next State.reset ∧ (∀ o, rxdmaStep o State.reset = State.reset) ∧
    (∀ d, txdmaStep d State.reset = State.reset) ∧ miiStep State.reset = State.reset ∧
    ∀ b, wakeStep b State.reset = State.reset :=
  ⟨rfl, fun _ => rfl, fun _ => rfl, rfl, fun _ => rfl⟩

/-- Settles O55: the values are those of `State.reset`, and each invariant is checked on them. -/
theorem resetState : Obligations.ResetState := by
  refine ⟨⟨rfl, rfl, rfl, ?_, rfl, rfl, rfl, rfl, rfl, rfl, rfl, rfl, rfl, rfl, rfl, rfl, rfl⟩, reset_noStep,
    State.reset_wf, reset_reservedZero, ?_, ?_, ?_, trivial, ?_⟩
  · decide
  · unfold State.indicesInRange
    decide
  · simp [State.rxFrameOk, State.reset]
  · exact fun hm => absurd rfl hm
  · refine ⟨rfl, ⟨fun _ hd => ?_, trivial⟩⟩
    cases hd

end Sys2Proof.Machine
end

section
/-!
PROOFS. The canonical form of memory (spec/20_memory.md R100, R103): memory changes only by byte, word and run writes, each of which
keeps the form (Laws/Memory), whichever agent makes them.
-/

namespace Sys2Proof.Machine

/-! ### The hardware agents -/

/-- A deposit stores the fragment's bytes and its two status words. -/
theorem rxDeposit_wf {o : RxOffer} {s t : State} (hm : Memory.wf s.mem) (h : rxDeposit o s = some t) : Memory.wf t.mem := by
  unfold rxDeposit at h
  dsimp only at h
  split at h <;> cases h
  exact Memory.wf_writeWord _ _ (Memory.wf_writeWord _ _ (Memory.wf_writeBytes _ _ hm))

/-- A transmission stores its status word. -/
theorem txSend_wf {d : BitVec 10} {s t : State} (hm : Memory.wf s.mem) (h : txSend d s = some t) : Memory.wf t.mem := by
  unfold txSend at h
  dsimp only at h
  split at h <;> cases h
  exact Memory.wf_writeWord _ _ hm

theorem rxdmaStep_wf (o : RxOffer) {s : State} (hm : Memory.wf s.mem) : Memory.wf (rxdmaStep o s).mem := by
  have deposit (u : State) (hu : Memory.wf u.mem) : Memory.wf ((rxDeposit o u).getD s).mem := by
    cases hd : rxDeposit o u with
    | none => exact hm
    | some t => exact rxDeposit_wf hu hd
  unfold rxdmaStep
  split
  · exact hm
  split
  · exact hm
  split
  · exact deposit s hm
  split
  · exact deposit (rxStart o s) hm
  · exact hm

theorem txdmaStep_wf (d : BitVec 10) {s : State} (hm : Memory.wf s.mem) : Memory.wf (txdmaStep d s).mem := by
  unfold txdmaStep
  split
  · cases hd : txSend d s with
    | none => exact hm
    | some t => exact txSend_wf hm hd
  · exact hm

/-- A management cycle leaves memory. -/
theorem miiStep_mem (s : State) : (miiStep s).mem = s.mem := by
  unfold miiStep
  split
  · rfl
  · split <;> rfl

/-- The wake step leaves memory. -/
theorem wakeStep_mem (b : BitVec 9) (s : State) : (wakeStep b s).mem = s.mem := by
  unfold wakeStep
  split <;> rfl

/-! ### The host contexts -/

/-- The only access that changes memory is the host's word write. -/
theorem Access.wf {s t : State} (h : Access s t) (hm : Memory.wf s.mem) : Memory.wf t.mem := by
  cases h with
  | memWrite a v _ h => rw [(hostWrite_ok h).2.2]; exact Memory.wf_writeWord a v hm
  | memRead a v _ h => rw [(hostRead_ok h).2.2]; exact hm
  | read r v _ h => rw [(busRead_ok h).2.2.2]; exact hm
  | write r v _ h => rw [(busWrite_ok h).2.2.2]; exact hm
  | none | event | powerOff | powerOn | setCb => exact hm

theorem HostStep.wf {s t : State} (h : HostStep s t) (hm : Memory.wf s.mem) : Memory.wf t.mem := by
  obtain ⟨u, v, ha, hmarks, hmoves⟩ := h
  rw [hmarks.moves_frame hmoves]
  exact ha.wf hm

/-! ### The obligation -/

theorem AgentStep.wf {s t : State} (h : AgentStep s t) (hm : Memory.wf s.mem) : Memory.wf t.mem := by
  cases h with
  | stutter | entry | exit => exact hm
  | fg _ _ _ _ _ hs | irq _ _ _ hs => exact hs.wf hm
  | rxdma o => exact rxdmaStep_wf o hm
  | txdma d => exact txdmaStep_wf d hm
  | mii => rw [miiStep_mem]; exact hm
  | wake b => rw [wakeStep_mem]; exact hm

/-- Settles O56: every agent's step keeps the canonical form, and passing the turn leaves memory. -/
theorem memoryInvariant : Obligations.MemoryInvariant := by
  intro s t hm h
  obtain ⟨u, hu, rfl⟩ := step_ok h
  exact hu.wf hm

end Sys2Proof.Machine
end

section
/-!
PROOFS. The encoding (spec/30_encoding.md): the fields of a command word and the decoder's answer in each format, the argument
records, and the lines of the two formats.
-/

namespace Sys2Proof

open Sys2Proof.Machine (Dir)

/-! ### The fields of a command word (R151 to R153) -/

/-- A word is the bits above 30, those from `k` to 30 and those below `k`. -/
theorem word_eq_of_fields (k : Nat) {w w' : Word} (hspace : w.extractLsb' 30 2 = w'.extractLsb' 30 2)
    (hzero : w.extractLsb' k (30 - k) = w'.extractLsb' k (30 - k)) (hlow : w.extractLsb' 0 k = w'.extractLsb' 0 k) :
    w = w' := by
  refine BitVec.eq_of_getLsbD_eq fun i hi => ?_
  have bit {start len : Nat} (h : w.extractLsb' start len = w'.extractLsb' start len) (h1 : start ≤ i) (h2 : i - start < len) :
      w.getLsbD i = w'.getLsbD i := by
    have := congrArg (·.getLsbD (i - start)) h
    simpa [h1, h2] using this
  by_cases h30 : 30 ≤ i
  · exact bit hspace h30 (by omega)
  by_cases hki : k ≤ i
  · exact bit hzero hki (by omega)
  · exact bit hlow (Nat.zero_le i) (by omega)

/-- A value widened to a word has zeros above its width. -/
theorem extractLsb'_setWidth_above {m start len : Nat} (x : BitVec m) (hm : m ≤ start) (hlen : start + len ≤ 32) :
    (x.setWidth 32).extractLsb' start len = 0#len := by
  rw [BitVec.extractLsb'_setWidth_of_le hlen]
  refine BitVec.eq_of_getLsbD_eq fun i _ => ?_
  simp [BitVec.getLsbD_of_ge x (start + i) (by omega)]

/-- A value widened to a word is that word's low field. -/
theorem extractLsb'_setWidth_low {m : Nat} (x : BitVec m) (hm : m ≤ 32) : (x.setWidth 32).extractLsb' 0 m = x := by
  rw [BitVec.extractLsb'_setWidth_of_le (by omega), BitVec.extractLsb'_eq_self]

/-- SPACE of the BUS words of a direction (R151). -/
def busSpace : Dir → BitVec 2
  | .read => 0#2
  | .write => 2#2

theorem busWord_eq_or (dir : Dir) (off : BitVec 12) :
    busWord dir off = (busSpace dir ++ 0#30) ||| off.setWidth 32 := by
  cases dir <;> rfl

@[simp] theorem busWord_space (dir : Dir) (off : BitVec 12) : (busWord dir off).extractLsb' 30 2 = busSpace dir := by
  rw [busWord_eq_or, BitVec.extractLsb'_or, extractLsb'_setWidth_above off (by decide) (by decide)]
  cases dir <;> decide

@[simp] theorem busWord_zeros (dir : Dir) (off : BitVec 12) : (busWord dir off).extractLsb' 12 18 = 0#18 := by
  rw [busWord_eq_or, BitVec.extractLsb'_or, extractLsb'_setWidth_above off (by decide) (by decide)]
  cases dir <;> decide

@[simp] theorem busWord_offset (dir : Dir) (off : BitVec 12) : (busWord dir off).extractLsb' 0 12 = off := by
  rw [busWord_eq_or, BitVec.extractLsb'_or, extractLsb'_setWidth_low off (by decide)]
  cases dir <;> exact BitVec.zero_or

@[simp] theorem opWord_space (code : BitVec 8) : (opWord code).extractLsb' 30 2 = 1#2 := by
  rw [opWord, BitVec.extractLsb'_or, extractLsb'_setWidth_above code (by decide) (by decide)]
  decide

@[simp] theorem opWord_zeros (code : BitVec 8) : (opWord code).extractLsb' 8 22 = 0#22 := by
  rw [opWord, BitVec.extractLsb'_or, extractLsb'_setWidth_above code (by decide) (by decide)]
  decide

@[simp] theorem opWord_code (code : BitVec 8) : (opWord code).extractLsb' 0 8 = code := by
  rw [opWord, BitVec.extractLsb'_or, extractLsb'_setWidth_low code (by decide)]
  exact BitVec.zero_or

/-- The two low bits of a word are those of its offset field. -/
theorem extractLsb'_offset_low (w : Word) : (w.extractLsb' 0 12).extractLsb' 0 2 = w.extractLsb' 0 2 :=
  BitVec.extractLsb'_extractLsb'_of_le (by decide)

/-- SPACE is reserved, a BUS format's or the OP format's. -/
theorem space_cases (w : Word) :
    w.extractLsb' 30 2 = 3#2 ∨ (∃ dir, w.extractLsb' 30 2 = busSpace dir) ∨ w.extractLsb' 30 2 = 1#2 := by
  have all : ∀ x : BitVec 2, x = 3#2 ∨ (x = busSpace .read ∨ x = busSpace .write) ∨ x = 1#2 := by decide
  rcases all (w.extractLsb' 30 2) with h | (h | h) | h
  exacts [.inl h, .inr (.inl ⟨_, h⟩), .inr (.inl ⟨_, h⟩), .inr (.inr h)]

theorem getLsbD_30_eq_space (w : Word) : w.getLsbD 30 = (w.extractLsb' 30 2).getLsbD 0 := by simp

theorem getLsbD_31_eq_space (w : Word) : w.getLsbD 31 = (w.extractLsb' 30 2).getLsbD 1 := by simp

/-! ### The decoder in each format (R154, R155) -/

section
variable {w : Word} {dir : Dir}

theorem decodeWord_reserved (h : w.extractLsb' 30 2 = 3#2) : decodeWord w = .illegal := if_pos h

theorem decodeWord_bus (h : w.extractLsb' 30 2 = busSpace dir) : decodeWord w =
    if w.extractLsb' 12 18 ≠ 0#18 ∨ w.extractLsb' 0 2 ≠ 0#2 then .illegal else .bus dir (w.extractLsb' 0 12) := by
  rw [decodeWord, getLsbD_30_eq_space, getLsbD_31_eq_space, h]
  cases dir <;> rfl

theorem decodeWord_op (h : w.extractLsb' 30 2 = 1#2) : decodeWord w =
    if w.extractLsb' 8 22 ≠ 0#22 then .illegal else (opAt (w.extractLsb' 0 8)).elim .illegal .op := by
  rw [decodeWord, getLsbD_30_eq_space, h]
  cases opAt (w.extractLsb' 0 8) <;> rfl

end

/-- A word that decodes to a BUS command is that command's word (R152). -/
theorem eq_busWord_of_decodeWord {w : Word} {dir : Dir} {off : BitVec 12} (h : decodeWord w = .bus dir off) :
    w = busWord dir off := by
  rcases space_cases w with hs | ⟨d, hs⟩ | hs
  · simp [decodeWord_reserved hs] at h
  · rw [decodeWord_bus hs] at h
    split at h <;> cases h
    rename_i hz
    have hzero := not_not.1 (not_or.1 hz).1
    exact word_eq_of_fields 12 (by simp [hs]) (by simp [hzero]) (by simp)
  · rw [decodeWord_op hs] at h
    split at h
    · cases h
    · cases ho : opAt (w.extractLsb' 0 8) <;> simp [ho] at h

/-- Only a listed OPCODE has an operation, and it is that operation's (R159). -/
theorem code_of_opAt {code : BitVec 8} {o : Op} (h : opAt code = some o) : o.code = code := by
  simpa using List.find?_some h

theorem opAt_eq_none_iff {code : BitVec 8} : opAt code = none ↔ code ∉ allOps.map Op.code := by
  simp [opAt, List.find?_eq_none]

/-- A word that decodes to an operation is that operation's word (R153). -/
theorem eq_opWord_of_decodeWord {w : Word} {o : Op} (h : decodeWord w = .op o) : w = opWord o.code := by
  rcases space_cases w with hs | ⟨d, hs⟩ | hs
  · simp [decodeWord_reserved hs] at h
  · rw [decodeWord_bus hs] at h
    split at h <;> cases h
  · rw [decodeWord_op hs] at h
    split at h
    · cases h
    · rename_i hz
      have hzero := not_not.1 hz
      cases ho : opAt (w.extractLsb' 0 8) <;> simp [ho] at h
      subst h
      exact word_eq_of_fields 8 (by simp [hs]) (by simp [hzero]) (by simp [code_of_opAt ho])

/-! ### The words of the two formats -/

/-- The word of an aligned offset is that offset's BUS command (R152). -/
theorem decodeWord_busWord {dir : Dir} {off : BitVec 12} (h : off.extractLsb' 0 2 = 0#2) :
    decodeWord (busWord dir off) = .bus dir off := by
  rw [decodeWord_bus (busWord_space dir off), ← extractLsb'_offset_low]
  simp [h]

/-- A BUS word of an offset that is not word-aligned is illegal (R152). -/
theorem decodeWord_busWord_misaligned {dir : Dir} {off : BitVec 12} (h : off.extractLsb' 0 2 ≠ 0#2) :
    decodeWord (busWord dir off) = .illegal := by
  rw [decodeWord_bus (busWord_space dir off), ← extractLsb'_offset_low]
  simp [h]

/-! ### Argument records (R156, R157) -/

theorem u32?_eq_some_iff {n : Nat} {v : Word} : u32? n = some v ↔ n = v.toNat := by
  constructor
  · intro h
    unfold u32? at h
    split at h <;> cases h
    exact (Nat.mod_eq_of_lt ‹_›).symm
  · rintro rfl
    exact u32_toNat v

section
variable {args : List Arg} {i : Instr}

theorem args0_eq_some_iff {j : Instr} : args0 j args = some i ↔ args = [] ∧ j = i := by
  unfold args0; split <;> simp_all

theorem argsW_eq_some_iff {f : Word → Instr} : argsW f args = some i ↔ ∃ v : Word, args = [.num v.toNat] ∧ f v = i := by
  unfold argsW; split <;> simp_all [u32?_eq_some_iff]

theorem argsWW_eq_some_iff {f : Word → Word → Instr} :
    argsWW f args = some i ↔ ∃ v w : Word, args = [.num v.toNat, .num w.toNat] ∧ f v w = i := by
  unfold argsWW; split <;> simp_all [u32?_eq_some_iff, Option.bind_eq_some_iff, and_assoc]

theorem argsN_eq_some_iff {f : Nat → Instr} : argsN f args = some i ↔ ∃ n, args = [.num n] ∧ f n = i := by
  unfold argsN; split <;> simp_all

theorem argsNN_eq_some_iff {f : Nat → Nat → Instr} :
    argsNN f args = some i ↔ ∃ m n, args = [.num m, .num n] ∧ f m n = i := by
  unfold argsNN; split <;> simp_all

theorem argsWN_eq_some_iff {f : Word → Nat → Instr} :
    argsWN f args = some i ↔ ∃ (v : Word) (n : Nat), args = [.num v.toNat, .num n] ∧ f v n = i := by
  unfold argsWN; split <;> simp_all [u32?_eq_some_iff]

theorem argsB_eq_some_iff {f : List Byte → Instr} : argsB f args = some i ↔ ∃ bs, args = [.bytes bs] ∧ f bs = i := by
  unfold argsB; split <;> simp_all

theorem argsBW_eq_some_iff {f : List Byte → Word → Instr} :
    argsBW f args = some i ↔ ∃ (bs : List Byte) (v : Word), args = [.bytes bs, .num v.toNat] ∧ f bs v = i := by
  unfold argsBW; split <;> simp_all [u32?_eq_some_iff]

theorem argsBN_eq_some_iff {f : List Byte → Nat → Instr} :
    argsBN f args = some i ↔ ∃ bs n, args = [.bytes bs, .num n] ∧ f bs n = i := by
  unfold argsBN; split <;> simp_all

theorem argsWC_eq_some_iff {f : Word → Option CallbackId → Instr} :
    argsWC f args = some i ↔ ∃ (v : Word) (c : Option CallbackId), args = [.num v.toNat, .cb c] ∧ f v c = i := by
  unfold argsWC; split <;> simp_all [u32?_eq_some_iff]

end

/-! ### Decoding an encoding, and back -/

theorem offset_of_regAt {off : BitVec 12} {r : Reg} (h : regAt off = some r) : r.offset = off := by
  simpa using List.find?_some h

theorem decode_eq_some_iff {l : Line} {i : Instr} : decode l = some i ↔ decodeLine l = .instr i := by
  unfold decode
  split <;> simp_all

theorem decode_busRead {off : BitVec 12} {r : Reg} {i : Instr} (hr : regAt off = some r) (hi : rdInstr r = i) :
    decode ⟨busWord .read off, []⟩ = some i := by
  rw [decode_eq_some_iff, ← offset_of_regAt hr, decodeLine_read, hi]

theorem decode_busWrite {off : BitVec 12} {r : Reg} {v : Word} {i : Instr} (hr : regAt off = some r) (hi : wrInstr r v = i) :
    decode ⟨busWord .write off, [.num v.toNat]⟩ = some i := by
  rw [decode_eq_some_iff, ← offset_of_regAt hr, decodeLine_write, hi]

theorem decode_op {code : BitVec 8} {o : Op} {args : List Arg} {i : Instr} (ho : opAt code = some o)
    (hi : opInstr o args = some i) : decode ⟨opWord code, args⟩ = some i := by
  rw [decode_eq_some_iff, ← code_of_opAt ho, decodeLine_op, hi]
  rfl

/-- Every command's line decodes to it, its arguments being of their types or not. -/
theorem decode_encode (i : Instr) : decode (encode i) = some i := by
  cases i
  case initRxRing | initTxRing | advanceConsume | advanceProduce | checkReceiveIndex | checkTransmitIndex | detectPhy |
      updateStatus | deinit | dispatch | halt => exact decode_op rfl (args0_eq_some_iff.2 ⟨rfl, rfl⟩)
  case checkStatus | setMode | memRead32 | delayMs => exact decode_op rfl (argsW_eq_some_iff.2 ⟨_, rfl, rfl⟩)
  case writeTxPacket | readRxPacket | memWrite32 => exact decode_op rfl (argsWW_eq_some_iff.2 ⟨_, _, rfl, rfl⟩)
  case readPhy | jmp => exact decode_op rfl (argsN_eq_some_iff.2 ⟨_, rfl, rfl⟩)
  case writePhy => exact decode_op rfl (argsNN_eq_some_iff.2 ⟨_, _, rfl, rfl⟩)
  case beq | bne => exact decode_op rfl (argsWN_eq_some_iff.2 ⟨_, _, rfl, rfl⟩)
  case crc32 => exact decode_op rfl (argsB_eq_some_iff.2 ⟨_, rfl, rfl⟩)
  case init => exact decode_op rfl (argsBW_eq_some_iff.2 ⟨_, _, rfl, rfl⟩)
  case setHashFilter => exact decode_op rfl (argsBN_eq_some_iff.2 ⟨_, _, rfl, rfl⟩)
  case setupCallback => exact decode_op rfl (argsWC_eq_some_iff.2 ⟨_, _, rfl, rfl⟩)
  case rdMac1 | rdMac2 | rdIpgt | rdIpgr | rdClrt | rdMaxf | rdSupp | rdMcfg | rdMcmd | rdMadr | rdMwtd | rdMrdd |
      rdMind | rdSa0 | rdSa1 | rdSa2 | rdCommand | rdStatus | rdRxDescriptor | rdRxStatus | rdRxDescriptorNumber |
      rdRxProduceIndex | rdRxConsumeIndex | rdTxDescriptor | rdTxStatus | rdTxDescriptorNumber | rdTxProduceIndex |
      rdTxConsumeIndex | rdRxFilterCtrl | rdRxFilterWoLStatus | rdRxFilterWoLClear | rdHashFilterL | rdHashFilterH |
      rdIntStatus | rdIntEnable | rdIntClear | rdIntSet => exact decode_busRead rfl rfl
  case wrMac1 | wrMac2 | wrIpgt | wrIpgr | wrClrt | wrMaxf | wrSupp | wrMcfg | wrMcmd | wrMadr | wrMwtd | wrMrdd |
      wrMind | wrSa0 | wrSa1 | wrSa2 | wrCommand | wrStatus | wrRxDescriptor | wrRxStatus | wrRxDescriptorNumber |
      wrRxProduceIndex | wrRxConsumeIndex | wrTxDescriptor | wrTxStatus | wrTxDescriptorNumber | wrTxProduceIndex |
      wrTxConsumeIndex | wrRxFilterCtrl | wrRxFilterWoLStatus | wrRxFilterWoLClear | wrHashFilterL | wrHashFilterH |
      wrIntStatus | wrIntEnable | wrIntClear | wrIntSet => exact decode_busWrite rfl rfl

theorem encode_rdInstr (r : Reg) : encode (rdInstr r) = ⟨busWord .read r.offset, []⟩ := by cases r <;> rfl

theorem encode_wrInstr (r : Reg) (v : Word) : encode (wrInstr r v) = ⟨busWord .write r.offset, [.num v.toNat]⟩ := by
  cases r <;> rfl

/-- The line of an operation's command is its word and the argument record it was read from. -/
theorem encode_opInstr {o : Op} {args : List Arg} {i : Instr} (h : opInstr o args = some i) :
    encode i = ⟨opWord o.code, args⟩ := by
  cases o
  case initRxRing | initTxRing | advanceConsume | advanceProduce | checkReceiveIndex | checkTransmitIndex | detectPhy |
      updateStatus | deinit | dispatch | halt => obtain ⟨rfl, rfl⟩ := args0_eq_some_iff.1 h; rfl
  case checkStatus | setMode | memRead32 | delayMs => obtain ⟨_, rfl, rfl⟩ := argsW_eq_some_iff.1 h; rfl
  case writeTxPacket | readRxPacket | memWrite32 => obtain ⟨_, _, rfl, rfl⟩ := argsWW_eq_some_iff.1 h; rfl
  case readPhy | jmp => obtain ⟨_, rfl, rfl⟩ := argsN_eq_some_iff.1 h; rfl
  case writePhy => obtain ⟨_, _, rfl, rfl⟩ := argsNN_eq_some_iff.1 h; rfl
  case beq | bne => obtain ⟨_, _, rfl, rfl⟩ := argsWN_eq_some_iff.1 h; rfl
  case crc32 => obtain ⟨_, rfl, rfl⟩ := argsB_eq_some_iff.1 h; rfl
  case init => obtain ⟨_, _, rfl, rfl⟩ := argsBW_eq_some_iff.1 h; rfl
  case setHashFilter => obtain ⟨_, _, rfl, rfl⟩ := argsBN_eq_some_iff.1 h; rfl
  case setupCallback => obtain ⟨_, _, rfl, rfl⟩ := argsWC_eq_some_iff.1 h; rfl

theorem encode_of_decodeLine {l : Line} {i : Instr} (h : decodeLine l = .instr i) : encode i = l := by
  obtain ⟨word, args⟩ := l
  unfold decodeLine at h
  dsimp only at h
  split at h
  case h_1 => cases h
  case h_2 o hw =>
    split at h <;> cases h
    rw [eq_opWord_of_decodeWord hw]
    exact encode_opInstr ‹_›
  case h_3 off hw =>
    split at h
    · split at h <;> cases h
      rename_i r hr
      rw [encode_rdInstr, offset_of_regAt hr, ← eq_busWord_of_decodeWord hw]
    · cases h
  case h_4 off hw =>
    split at h
    · split at h <;> cases h
      rename_i v r hv hr
      rw [encode_wrInstr, offset_of_regAt hr, ← u32?_eq_some_iff.1 hv, ← eq_busWord_of_decodeWord hw]
    · cases h

/-- Settles O1: each command by its format and the shape of its argument record (`decode_encode`), well-formed or not. -/
theorem decodeOfEncode : Obligations.DecodeOfEncode := fun _ i _ => decode_encode i

/-- Settles O2: the word's format fixes the word, and the command's argument record is the one it was read from. -/
theorem encodeOfDecode : Obligations.EncodeOfDecode := fun _ _ h => encode_of_decodeLine (decode_eq_some_iff.1 h)

end Sys2Proof
end

section
/-!
PROOFS. What a line that is no command does (spec/30_encoding.md R154, R157, R160), and the foreground commands inside DISPATCH
(R163).
-/

namespace Sys2Proof.Machine

/-! ### Running a line -/

theorem runLine_illegal {l : Line} (s : State) (h : decodeLine l = .illegal) :
    runLine l s = .fault (.illegalCommand (s.site none)) := by
  rw [runLine, h]
  rfl

theorem runLine_hole {l : Line} {dir : Dir} {off : BitVec 12} (s : State) (h : decodeLine l = .hole dir off) :
    runLine l s = holeFault off s := by
  rw [runLine, h]

theorem decodeLine_illegal {w : Word} (args : List Arg) (h : decodeWord w = .illegal) : decodeLine ⟨w, args⟩ = .illegal := by
  simp only [decodeLine, h]

/-- A BUS-R line with an argument is illegal, whatever its offset. -/
theorem decodeLine_busRead_illegal {args : List Arg} (off : BitVec 12) (h : args ≠ []) :
    decodeLine ⟨busWord .read off, args⟩ = .illegal := by
  by_cases ha : off.extractLsb' 0 2 = 0#2
  · obtain ⟨a, as, rfl⟩ := List.exists_cons_of_ne_nil h
    simp only [decodeLine, decodeWord_busWord ha]
  · exact decodeLine_illegal _ (decodeWord_busWord_misaligned ha)

/-- A BUS-W line whose argument record is not one `u32` is illegal, whatever its offset. -/
theorem decodeLine_busWrite_illegal {args : List Arg} (off : BitVec 12) (h : ∀ v : Word, args ≠ [.num v.toNat]) :
    decodeLine ⟨busWord .write off, args⟩ = .illegal := by
  by_cases ha : off.extractLsb' 0 2 = 0#2
  · simp only [decodeLine, decodeWord_busWord ha]
    split
    · rename_i n
      have hn : u32? n = none := Option.eq_none_iff_forall_ne_some.2 fun v hv => h v (by rw [u32?_eq_some_iff.1 hv])
      rw [hn]
    · rfl
  · exact decodeLine_illegal _ (decodeWord_busWord_misaligned ha)

/-- A line of the BUS shape whose word-aligned offset has no in-scope register is a hole. -/
theorem decodeLine_hole {dir : Dir} {off : BitVec 12} {args : List Arg} (ha : off.extractLsb' 0 2 = 0#2)
    (hargs : dir = .read ∧ args = [] ∨ dir = .write ∧ ∃ v : Word, args = [.num v.toNat]) (hr : regAt off = none) :
    decodeLine ⟨busWord dir off, args⟩ = .hole dir off := by
  rcases hargs with ⟨rfl, rfl⟩ | ⟨rfl, v, rfl⟩
  · simp only [decodeLine, decodeWord_busWord ha, hr]
  · simp only [decodeLine, decodeWord_busWord ha, u32_toNat, hr]

/-! ### Offsets without an in-scope register -/

theorem regAt_eq_none_iff {off : BitVec 12} : regAt off = none ↔ off ∉ allRegs.map Reg.offset := by
  simp [regAt, List.find?_eq_none]

theorem regAt_outOfScope {off : BitVec 12} (h : off ∈ outOfScopeOffsets) : regAt off = none := by
  fin_cases h <;> rfl

theorem holeFault_refused {off : BitVec 12} {s : State} (hp : s.powered = true) (h : off ∈ outOfScopeOffsets) :
    holeFault off s = .fault (.refused (s.site (some off.toNat))) := by
  simp [holeFault, hp, h]

theorem holeFault_unmapped {off : BitVec 12} {s : State} (hp : s.powered = true) (h : off ∉ outOfScopeOffsets) :
    holeFault off s = .fault (.unmapped (s.site (some off.toNat))) := by
  simp [holeFault, hp, h]

/-! ### Ill-formed commands -/

/-- A command with an argument outside its type faults before its other checks (R157, log entry 21). -/
theorem exec_illFormed {i : Instr} {s : State} (h : i.wellFormed (curProg s).length = false) :
    exec i s = .fault (.illegalCommand (s.site none)) := by
  cases i
  case init => exact if_pos h
  case writePhy | readPhy | setHashFilter | beq | bne | jmp => exact if_neg (Bool.eq_false_iff.1 h)
  all_goals cases h

/-! ### The obligations -/

/-- Settles O3: the decoder's answer in each SPACE, the listed OPCODEs being those of `allOps`. -/
theorem illegalCommandWords : Obligations.IllegalCommandWords := by
  refine fun w args s => ⟨?_, fun h => runLine_illegal s (decodeLine_illegal args h)⟩
  change _ ↔ _ ∨ _ ∨ _ ∧ (_ ∨ w.extractLsb' 0 8 ∉ allOps.map Op.code)
  rw [getLsbD_30_eq_space, ← opAt_eq_none_iff]
  rcases space_cases w with h | ⟨dir, h⟩ | h
  · simp [decodeWord_reserved h, h]
  · rw [decodeWord_bus h, h]
    cases dir <;> simp [busSpace, imp_iff_not_or]
  · rw [decodeWord_op h, h]
    cases opAt (w.extractLsb' 0 8) <;> simp

/-- Settles O5: such a line is a hole, and R33's table is the in-scope registers with the out-of-scope ones. -/
theorem unmappedAndRefusedOffsets : Obligations.UnmappedAndRefusedOffsets := by
  intro dir off args s ha hargs hp
  refine ⟨fun h => ?_, fun h => ?_⟩
  · rw [runLine_hole s (decodeLine_hole ha hargs (regAt_outOfScope h)), holeFault_refused hp h]
  · have hmap : off ∉ allRegs.map Reg.offset := fun hm => h ((by decide : allRegs.map Reg.offset ⊆ _) hm)
    have hscope : off ∉ outOfScopeOffsets := fun hm => h ((by decide : outOfScopeOffsets ⊆ _) hm)
    rw [runLine_hole s (decodeLine_hole ha hargs (regAt_eq_none_iff.2 hmap)), holeFault_unmapped hp hscope]

/-- Settles O6: an ill-typed command by `exec_illFormed`; a record of another shape makes no command. -/
theorem illFormedArguments : Obligations.IllFormedArguments := by
  refine ⟨fun i s h => exec_illFormed h, fun o args s h => runLine_illegal s ?_,
    fun off args s h => runLine_illegal s (decodeLine_busRead_illegal off h),
    fun off args s h => runLine_illegal s (decodeLine_busWrite_illegal off h)⟩
  rw [decodeLine_op, h]
  rfl

/-- Settles O4: each word is evaluated. -/
theorem encodedWordsDecode : Obligations.EncodedWordsDecode := by
  unfold Obligations.EncodedWordsDecode
  decide

/-- Settles O46: the context check is the first of each command, INIT's `mac` apart. -/
theorem foregroundOnlyCommands : Obligations.ForegroundOnlyCommands := by
  intro s mac mode mask fn
  refine ⟨fun hi hm => ⟨?_, if_pos hi, if_pos hi, if_pos hi, if_pos hi⟩, fun hi => ?_⟩
  · simp [exec, execInit, isMac, hm, hi]
  · rcases hi with hi | ⟨st, n, id, pc, op, hi⟩ <;> simp [exec, execDispatch, hi]

end Sys2Proof.Machine
end

section
/-!
PROOFS. The reserved bits of the registers and the ring indices (spec/40_bus.md R201, spec/10_state.md R52, R57): clearing the reserved
bits commutes with every register write, the checks of a write keep the indices, and what a hardware agent does to the registers is said
once.
-/

namespace Sys2Proof.Machine

/-! ### Clearing the reserved bits -/

/-- No bit outside a mask is set exactly where the mask keeps the value. -/
theorem and_not_eq_zero_iff (a m : Word) : a &&& ~~~m = 0 ↔ a &&& m = a := by
  constructor <;> intro h
  · calc a &&& m = a &&& m ||| a &&& ~~~m := by rw [h]; exact (BitVec.or_zero).symm
      _ = a := by rw [← BitVec.and_or_distrib_left, BitVec.or_not_self, BitVec.and_allOnes]
  · rw [← h, BitVec.and_assoc, BitVec.and_not_self]; exact BitVec.and_zero

/-- The registers without their reserved bits (R201). -/
def Regs.masked (r : Regs) : Regs where
  mac1 := r.mac1 &&& 0x0000CF1F#32
  mac2 := r.mac2 &&& 0x000073FF#32
  ipgt := r.ipgt &&& 0x0000007F#32
  ipgr := r.ipgr &&& 0x00007F7F#32
  clrt := r.clrt &&& 0x00003F0F#32
  maxf := r.maxf &&& 0x0000FFFF#32
  supp := r.supp &&& 0x00000900#32
  mcfg := r.mcfg &&& 0x0000803F#32
  mcmd := r.mcmd &&& 0x00000001#32
  madr := r.madr &&& 0x00001F1F#32
  mrdd := r.mrdd &&& 0x0000FFFF#32
  sa0 := r.sa0 &&& 0x0000FFFF#32
  sa1 := r.sa1 &&& 0x0000FFFF#32
  sa2 := r.sa2 &&& 0x0000FFFF#32
  command := r.command &&& 0x000007C3#32
  rxDescriptor := r.rxDescriptor &&& 0xFFFFFFFC#32
  rxStatus := r.rxStatus &&& 0xFFFFFFF8#32
  rxDescriptorNumber := r.rxDescriptorNumber &&& 0x0000FFFF#32
  rxProduceIndex := r.rxProduceIndex &&& 0x0000FFFF#32
  rxConsumeIndex := r.rxConsumeIndex &&& 0x0000FFFF#32
  txDescriptor := r.txDescriptor &&& 0xFFFFFFFC#32
  txStatus := r.txStatus &&& 0xFFFFFFFC#32
  txDescriptorNumber := r.txDescriptorNumber &&& 0x0000FFFF#32
  txProduceIndex := r.txProduceIndex &&& 0x0000FFFF#32
  txConsumeIndex := r.txConsumeIndex &&& 0x0000FFFF#32
  rxFilterCtrl := r.rxFilterCtrl &&& 0x0000303F#32
  rxFilterWoLStatus := r.rxFilterWoLStatus &&& 0x000001BF#32
  hashFilterL := r.hashFilterL
  hashFilterH := r.hashFilterH
  intStatus := r.intStatus &&& 0x000030FF#32
  intEnable := r.intEnable &&& 0x000030FF#32

theorem reservedZero_iff_masked (r : Regs) : r.reservedZero ↔ r.masked = r := by
  cases r
  simp only [Regs.reservedZero, Regs.masked, Regs.mk.injEq, and_not_eq_zero_iff, true_and]

theorem intDefinedMask_eq : intDefinedMask = 0x000030FF := by decide

theorem commandRegs_masked (v : Word) (r : Regs) : (commandRegs v r).masked = commandRegs v r.masked := by
  unfold commandRegs
  cases v.getLsbD 3 <;> cases v.getLsbD 4 <;> cases v.getLsbD 5 <;>
    simp [Regs.masked, Regs.resetHigh, Regs.reset, BitVec.and_assoc]

theorem writeRegs_masked (q : Reg) (v : Word) (r : Regs) : (writeRegs q v r).masked = writeRegs q v r.masked := by
  cases q
  case command => exact commandRegs_masked v r
  case rxFilterWoLClear => simp only [writeRegs, Regs.masked]; ac_rfl
  case intClear => simp only [writeRegs, Regs.masked]; ac_rfl
  case intSet => simp [writeRegs, Regs.masked, intDefinedMask_eq, BitVec.and_or_distrib_right, BitVec.and_assoc]
  all_goals simp [writeRegs, Regs.masked, intDefinedMask_eq, BitVec.and_assoc]

/-! ### What a hardware agent does to the registers -/

/-- The registers after a step of a hardware agent: bits set in IntStatus, with RXDMA's or TXDMA's index moved on, or with wake bits
set; or MRDD filled (R503, R504, R511, R521, R532). -/
inductive HardwareRegs (r : Regs) : Regs → Prop where
  | ints (i : Word) : i &&& 0x000030FF#32 = i → HardwareRegs r { r with intStatus := r.intStatus ||| i }
  | deposit (i : Word) : i &&& 0x000030FF#32 = i → HardwareRegs r { r with
      rxProduceIndex := word ((idx r.rxProduceIndex + 1) % (idx r.rxDescriptorNumber + 1)), intStatus := r.intStatus ||| i }
  | send (i : Word) : i &&& 0x000030FF#32 = i → HardwareRegs r { r with
      txConsumeIndex := word ((idx r.txConsumeIndex + 1) % (idx r.txDescriptorNumber + 1)), intStatus := r.intStatus ||| i }
  | mrdd (v : Half) : HardwareRegs r { r with mrdd := v.setWidth 32 }
  | wake (w i : Word) : w &&& 0x000001BF#32 = w → i &&& 0x000030FF#32 = i → HardwareRegs r { r with
      rxFilterWoLStatus := r.rxFilterWoLStatus ||| w, intStatus := r.intStatus ||| i }

theorem HardwareRegs.refl (r : Regs) : HardwareRegs r r := by
  have h := HardwareRegs.ints (r := r) 0 rfl
  rwa [show r.intStatus ||| 0 = r.intStatus from BitVec.or_zero] at h

theorem or_masked {a b m : Word} (ha : a &&& m = a) (hb : b &&& m = b) : (a ||| b) &&& m = a ||| b := by
  rw [BitVec.and_or_distrib_right, ha, hb]

theorem bitIf_masked (x : Bool) {i : Nat} {m : Word} (h : bitMask i &&& m = bitMask i) : bitIf x i &&& m = bitIf x i := by
  cases x
  · exact BitVec.zero_and
  · exact h

/-- The status bits of a deposit are defined interrupt bits. -/
theorem rxInts_masked (s : State) (ctl info : Word) (last : Bool) :
    rxInts s ctl info last &&& 0x000030FF#32 = rxInts s ctl info last :=
  or_masked (or_masked (bitIf_masked _ rfl) (bitIf_masked _ rfl)) (bitIf_masked _ rfl)

/-- The status bits of a transmission are defined interrupt bits. -/
theorem txInts_masked (s : State) (ctl st : Word) : txInts s ctl st &&& 0x000030FF#32 = txInts s ctl st :=
  or_masked (or_masked (or_masked (bitIf_masked _ rfl) (bitIf_masked _ rfl)) (bitIf_masked _ rfl)) (bitIf_masked _ rfl)

theorem overflow_masked (x : BitVec 3) : x.setWidth 32 &&& 0x000030FF#32 = x.setWidth 32 := by
  revert x
  decide

theorem setWidth_masked (x : Half) : x.setWidth 32 &&& 0x0000FFFF#32 = x.setWidth 32 := by
  refine BitVec.eq_of_toNat_eq ?_
  rw [BitVec.toNat_and]
  exact (Nat.and_two_pow_sub_one_eq_mod _ 16).trans (Nat.mod_eq_of_lt (by simp; omega))

theorem wakeBits_masked (b : BitVec 9) (s : State) : wakeBits b s &&& 0x000001BF#32 = wakeBits b s := by
  have hm : ∀ x y : Bool, ((if x then 0x00000100#32 else 0#32) ||| (if y then 0x000000BF#32 else 0#32)) &&& 0x000001BF#32 =
      ((if x then 0x00000100#32 else 0#32) ||| (if y then 0x000000BF#32 else 0#32)) := by decide
  rw [wakeBits, BitVec.and_assoc, wakeMask, hm]

theorem rxDeposit_regs {o : RxOffer} {s t : State} (h : rxDeposit o s = some t) : HardwareRegs s.regs t.regs := by
  unfold rxDeposit at h
  dsimp only at h
  split at h <;> cases h
  exact .deposit _ (rxInts_masked _ _ _ _)

theorem rxdmaStep_regs (o : RxOffer) (s : State) : HardwareRegs s.regs (rxdmaStep o s).regs := by
  have deposit (u : State) (hu : u.regs = s.regs) : HardwareRegs s.regs ((rxDeposit o u).getD s).regs := by
    cases hd : rxDeposit o u with
    | none => exact .refl _
    | some t => exact hu ▸ rxDeposit_regs hd
  unfold rxdmaStep
  split
  · exact .refl _
  split
  · exact .ints _ (overflow_masked _)
  split
  · exact deposit s rfl
  split
  · exact deposit (rxStart o s) rfl
  · exact .refl _

theorem txdmaStep_regs (d : BitVec 10) (s : State) : HardwareRegs s.regs (txdmaStep d s).regs := by
  unfold txdmaStep txSend
  dsimp only
  split
  · split
    · exact .send _ (txInts_masked _ _ _)
    · exact .refl _
  · exact .refl _

theorem miiStep_regs (s : State) : HardwareRegs s.regs (miiStep s).regs := by
  unfold miiStep
  split
  · exact .refl _
  split
  · exact .refl _
  · exact .refl _
  · exact .mrdd _

theorem wakeStep_regs (b : BitVec 9) (s : State) : HardwareRegs s.regs (wakeStep b s).regs := by
  unfold wakeStep
  split
  · exact .wake _ _ (wakeBits_masked b s) (by decide)
  · exact .refl _

/-! ### The reserved bits and the ring indices -/

/-- The low 16 bits of a word, as a register stores an index or a ring size. -/
theorem toNat_and_low16 (v : Word) : (v &&& 0x0000FFFF#32).toNat = idx v := by
  rw [idx_eq_mod, BitVec.toNat_and]
  exact Nat.and_two_pow_sub_one_eq_mod v.toNat 16

theorem idx_and_low16 (v : Word) : idx (v &&& 0x0000FFFF#32) = idx v := by
  rw [idx_eq_mod, toNat_and_low16]
  exact Nat.mod_eq_of_lt (idx_lt v)

/-- An index moved on is below its ring's size, so it is 16 bits wide. -/
theorem toNat_word_mod (i : Nat) (size : Word) : (word (i % (idx size + 1))).toNat = i % (idx size + 1) := by
  have hlt : i % (idx size + 1) < idx size + 1 := Nat.mod_lt _ (Nat.succ_pos _)
  have hsize := idx_lt size
  rw [word, BitVec.toNat_ofNat, Nat.mod_eq_of_lt (by omega)]

theorem word_mod_masked (i : Nat) (size : Word) :
    word (i % (idx size + 1)) &&& 0x0000FFFF#32 = word (i % (idx size + 1)) := by
  have hlt : i % (idx size + 1) < idx size + 1 := Nat.mod_lt _ (Nat.succ_pos _)
  have hsize := idx_lt size
  refine BitVec.eq_of_toNat_eq ?_
  rw [toNat_and_low16, idx_eq_mod, toNat_word_mod, Nat.mod_eq_of_lt (by omega)]

theorem HardwareRegs.reservedZero {r r' : Regs} (h : HardwareRegs r r') (hr : r.reservedZero) : r'.reservedZero := by
  rw [reservedZero_iff_masked] at hr ⊢
  cases r
  simp only [Regs.masked, Regs.mk.injEq] at hr
  cases h with
  | ints i hi => simp only [Regs.masked, hr, or_masked _ hi]
  | deposit i hi => simp only [Regs.masked, hr, or_masked _ hi, word_mod_masked]
  | send i hi => simp only [Regs.masked, hr, or_masked _ hi, word_mod_masked]
  | mrdd v => simp only [Regs.masked, hr, setWidth_masked]
  | wake w i hw hi => simp only [Regs.masked, hr, or_masked _ hw, or_masked _ hi]

/-- Every ring index is below its ring's size, of the registers alone (R52, R57). -/
def Regs.indicesInRange (r : Regs) : Prop :=
  r.rxProduceIndex.toNat < idx r.rxDescriptorNumber + 1 ∧ r.rxConsumeIndex.toNat < idx r.rxDescriptorNumber + 1 ∧
  r.txProduceIndex.toNat < idx r.txDescriptorNumber + 1 ∧ r.txConsumeIndex.toNat < idx r.txDescriptorNumber + 1

theorem indicesInRange_iff_regs (s : State) : s.indicesInRange ↔ s.regs.indicesInRange := Iff.rfl

theorem HardwareRegs.indicesInRange {r r' : Regs} (h : HardwareRegs r r') (hr : r.indicesInRange) : r'.indicesInRange := by
  obtain ⟨hpr, hcr, hpt, hct⟩ := hr
  cases h with
  | ints | mrdd | wake => exact ⟨hpr, hcr, hpt, hct⟩
  | deposit => exact ⟨(toNat_word_mod _ _).trans_lt (Nat.mod_lt _ (Nat.succ_pos _)), hcr, hpt, hct⟩
  | send => exact ⟨hpr, hcr, hpt, (toNat_word_mod _ _).trans_lt (Nat.mod_lt _ (Nat.succ_pos _))⟩

/-- A reset leaves ring size 1 and index 0; a reset of one datapath leaves its index 0 (R220). -/
theorem commandRegs_indicesInRange (v : Word) {r : Regs} (hr : r.indicesInRange) : (commandRegs v r).indicesInRange := by
  obtain ⟨hpr, hcr, hpt, hct⟩ := hr
  unfold commandRegs
  cases v.getLsbD 3 <;> cases v.getLsbD 4 <;> cases v.getLsbD 5 <;>
    simp [Regs.indicesInRange, Regs.resetHigh, Regs.reset, *]

/-- A list of checks accepts where the first one does and the others do. -/
theorem check_eq_none_iff {c : Prop} [Decidable c] {f : FaultSite → Fault} {o : Option (FaultSite → Fault)} :
    (if c then some f else o) = none ↔ ¬c ∧ o = none := by
  split <;> simp_all

theorem writeCheck_rxDescriptorNumber {v : Word} {s : State} : writeCheck .rxDescriptorNumber v s = none ↔
    s.rxOn = false ∧ s.regs.rxProduceIndex.toNat ≤ idx v ∧ s.regs.rxConsumeIndex.toNat ≤ idx v := by
  simp [writeCheck, check_eq_none_iff]

theorem writeCheck_txDescriptorNumber {v : Word} {s : State} : writeCheck .txDescriptorNumber v s = none ↔
    s.txOn = false ∧ s.regs.txProduceIndex.toNat ≤ idx v ∧ s.regs.txConsumeIndex.toNat ≤ idx v := by
  simp [writeCheck, check_eq_none_iff]

theorem writeCheck_rxConsumeIndex {v : Word} {s : State} : writeCheck .rxConsumeIndex v s = none ↔ idx v < s.nr ∧
    (s.rxOn = true → subMod (idx v) (idx s.regs.rxConsumeIndex) s.nr ≤
      subMod (idx s.regs.rxProduceIndex) (idx s.regs.rxConsumeIndex) s.nr) := by
  simp [writeCheck, check_eq_none_iff]

theorem writeCheck_txProduceIndex {v : Word} {s : State} : writeCheck .txProduceIndex v s = none ↔ idx v < s.nt ∧
    (s.txOn = true → subMod (idx v) (idx s.regs.txProduceIndex) s.nt ≤
      subMod (idx s.regs.txConsumeIndex) (idx s.regs.txProduceIndex + 1) s.nt) := by
  simp [writeCheck, check_eq_none_iff]

/-- The checks of the ring sizes and of the driver's indices keep every index in range (R221 to R223). -/
theorem writeRegs_indicesInRange {q : Reg} {v : Word} {s : State} (hc : writeCheck q v s = none)
    (hr : s.regs.indicesInRange) : (writeRegs q v s.regs).indicesInRange := by
  have ⟨hpr, hcr, hpt, hct⟩ := hr
  cases q
  case command => exact commandRegs_indicesInRange v hr
  case rxDescriptorNumber =>
    obtain ⟨_, hp, hc⟩ := writeCheck_rxDescriptorNumber.1 hc
    rw [← idx_and_low16, ← Nat.lt_succ_iff] at hp hc
    exact ⟨hp, hc, hpt, hct⟩
  case txDescriptorNumber =>
    obtain ⟨_, hp, hc⟩ := writeCheck_txDescriptorNumber.1 hc
    rw [← idx_and_low16, ← Nat.lt_succ_iff] at hp hc
    exact ⟨hpr, hcr, hp, hc⟩
  case rxConsumeIndex => exact ⟨hpr, (toNat_and_low16 v).trans_lt (writeCheck_rxConsumeIndex.1 hc).1, hpt, hct⟩
  case txProduceIndex => exact ⟨hpr, hcr, (toNat_and_low16 v).trans_lt (writeCheck_txProduceIndex.1 hc).1, hct⟩
  all_goals exact hr

/-! ### The obligation -/

/-- The registers have 0 in their reserved bits and each ring index below its ring's size (R201, R52, R57). -/
def Regs.ok (r : Regs) : Prop := r.reservedZero ∧ r.indicesInRange

theorem Access.regs_ok {s t : State} (h : Access s t) (hs : s.regs.ok) : t.regs.ok := by
  cases h with
  | write r v _ h =>
    obtain ⟨_, _, hc, rfl⟩ := busWrite_ok h
    refine ⟨?_, writeRegs_indicesInRange hc hs.2⟩
    rw [State.log_regs, writeEffect_regs, reservedZero_iff_masked, writeRegs_masked, (reservedZero_iff_masked _).1 hs.1]
  | read r v _ h => rw [(busRead_ok h).2.2.2]; exact hs
  | memRead a v _ h => rw [(hostRead_ok h).2.2]; exact hs
  | memWrite a v _ h => rw [(hostWrite_ok h).2.2]; exact hs
  | none | event | powerOff | powerOn | setCb => exact hs

theorem HardwareRegs.ok {r r' : Regs} (h : HardwareRegs r r') (hr : r.ok) : r'.ok :=
  ⟨h.reservedZero hr.1, h.indicesInRange hr.2⟩

theorem AgentStep.regs_ok {s t : State} (h : AgentStep s t) (hs : s.regs.ok) : t.regs.ok := by
  cases h with
  | stutter | entry | exit => exact hs
  | fg _ _ _ _ _ hh | irq _ _ _ hh =>
    obtain ⟨u, v, ha, hm, hv⟩ := hh
    rw [hm.moves_frame hv]
    exact ha.regs_ok hs
  | rxdma o => exact (rxdmaStep_regs o s).ok hs
  | txdma d => exact (txdmaStep_regs d s).ok hs
  | mii => exact (miiStep_regs s).ok hs
  | wake b => exact (wakeStep_regs b s).ok hs

/-- Settles O57: an accepted write keeps both by its mask and its checks, a hardware agent's step by what it does to the registers. -/
theorem registerInvariant : Obligations.RegisterInvariant := by
  intro s t hz hi h
  obtain ⟨u, hu, rfl⟩ := step_ok h
  exact hu.regs_ok ⟨hz, hi⟩

end Sys2Proof.Machine
end

section
/-!
PROOFS. Reads and writes of the registers by BUS commands (spec/40_bus.md R204 to R220, R225 to R232): the MAC registers, the MII
management registers, the indicators, Command, the receive filter and the interrupt registers.
-/

namespace Sys2Proof.Machine

/-! ### What a BUS command answers -/

section
variable {r : Reg} {s : State}

theorem exec_wr_readOnly (v : Word) (hp : s.powered = true) (hr : regReadOnly r = true) :
    exec (wrInstr r v) s = .fault (.roWrite (s.site (some r.offset.toNat))) := by
  simp [exec_wrInstr, busWrite, hp, hr, answerKeep]

theorem exec_rd_writeOnly (hp : s.powered = true) (hr : regWriteOnly r = true) :
    exec (rdInstr r) s = .fault (.woRead (s.site (some r.offset.toNat))) := by
  simp [exec_rdInstr, busRead, hp, hr, answer]

end

/-- The registers whose write has no check and no effect but on the registers (R204 to R210, R218, R225 to R232). -/
def plainWrite : Reg → Bool
  | .mac1 | .mac2 | .ipgt | .ipgr | .clrt | .maxf | .supp | .sa0 | .sa1 | .sa2 | .rxFilterCtrl | .rxFilterWoLClear
  | .hashFilterL | .hashFilterH | .intEnable | .intClear | .intSet => true
  | _ => false

theorem exec_wr_plain {r : Reg} {s : State} (v : Word) (hp : s.powered = true) (hr : plainWrite r = true) :
    exec (wrInstr r v) s = .next (writeDone r v (writeRegs r v s.regs) s) := by
  have hw : regReadOnly r = false ∧ writeCheck r v s = none ∧ r ≠ .mwtd ∧ r ≠ .mcmd ∧ r ≠ .command := by
    cases r <;> first | exact absurd hr (by decide) | exact ⟨rfl, rfl, nofun, nofun, nofun⟩
  obtain ⟨hro, hc, h1, h2, h3⟩ := hw
  exact exec_wr_done hp hro hc h1 h2 h3

/-! ### The MAC registers -/

/-- Settles O9: each read returns the stored value, each write stores by `writeRegs`, unchecked. -/
theorem macRegisterAccess : Obligations.MacRegisterAccess := by
  intro s v hp
  have rd (r : Reg) (hr : regWriteOnly r = false) := exec_rd_next hp hr
  have wr (r : Reg) (hr : plainWrite r = true) := exec_wr_plain v hp hr
  exact ⟨rd .mac1 rfl, wr .mac1 rfl, rd .mac2 rfl, wr .mac2 rfl, rd .ipgt rfl, wr .ipgt rfl, rd .ipgr rfl, wr .ipgr rfl,
    rd .clrt rfl, wr .clrt rfl, rd .maxf rfl, wr .maxf rfl, rd .supp rfl, wr .supp rfl, rd .sa0 rfl, wr .sa0 rfl,
    rd .sa1 rfl, wr .sa1 rfl, rd .sa2 rfl, wr .sa2 rfl⟩

/-! ### The receive filter and the interrupt registers -/

/-- Settles O10: reads and unchecked writes as of the MAC registers, and the four accesses R202 faults. -/
theorem filterAndInterruptRegisterAccess : Obligations.FilterAndInterruptRegisterAccess := by
  intro s v hp
  have rd (r : Reg) (hr : regWriteOnly r = false) := exec_rd_next hp hr
  have wr (r : Reg) (hr : plainWrite r = true) := exec_wr_plain v hp hr
  have ro (r : Reg) (hr : regReadOnly r = true) := exec_wr_readOnly v hp hr
  have wo (r : Reg) (hr : regWriteOnly r = true) := exec_rd_writeOnly hp hr
  exact ⟨rd .rxFilterCtrl rfl, wr .rxFilterCtrl rfl, rd .rxFilterWoLStatus rfl, ro .rxFilterWoLStatus rfl,
    wo .rxFilterWoLClear rfl, wr .rxFilterWoLClear rfl, rd .hashFilterL rfl, wr .hashFilterL rfl, rd .hashFilterH rfl,
    wr .hashFilterH rfl, rd .intStatus rfl, ro .intStatus rfl, rd .intEnable rfl, intDefinedMask_eq ▸ wr .intEnable rfl,
    wo .intClear rfl, intDefinedMask_eq ▸ wr .intClear rfl, wo .intSet rfl, intDefinedMask_eq ▸ wr .intSet rfl⟩

/-! ### The indicators -/

theorem Mii.busy_iff (m : Mii) : m.busy = true ↔ m ≠ .idle := by
  cases m <;> simp [Mii.busy]

theorem Mii.reading_iff (m : Mii) : m.reading = true ↔ ∃ phy reg, m = .read phy reg := by
  cases m <;> simp [Mii.reading]

theorem mindValue_getLsbD (s : State) (b : Nat) : (mindValue s).getLsbD b =
    (decide (b = 0) && s.mii.busy || decide (b = 2) && s.mii.reading || decide (b = 3) && Config.miiLinkFail s.tick) := by
  rw [mindValue, BitVec.getLsbD_or, BitVec.getLsbD_or, bitIf_getLsbD _ 0 b (by decide), bitIf_getLsbD _ 2 b (by decide),
    bitIf_getLsbD _ 3 b (by decide)]

/-- Settles O12: MIND is three flags at bits 0, 2 and 3, Status a drawn value of two bits. -/
theorem indicatorReads : Obligations.IndicatorReads := by
  intro s hp
  refine ⟨⟨mindValue s, exec_rd_next (r := .mind) hp rfl, ?_, ?_, ?_, ?_⟩,
    ⟨statusValue s, exec_rd_next (r := .status) hp rfl, ?_⟩⟩
  · rw [← Mii.busy_iff, mindValue_getLsbD]
    simp
  · rw [mindValue_getLsbD]
    simp
  · rw [← Mii.reading_iff, mindValue_getLsbD]
    simp
  · rw [mindValue]
    cases s.mii.busy <;> cases s.mii.reading <;> cases Config.miiLinkFail s.tick <;> rfl
  · rw [statusValue]
    generalize Config.statusBits s.tick = x
    revert x
    decide

/-! ### The MII management registers -/

/-- A write of MCMD that does not set READ afresh starts no cycle (R212). -/
theorem writeEffect_mcmd_keep {v : Word} {s : State} (h : ¬(s.regs.mcmd.getLsbD 0 = false ∧ v.getLsbD 0 = true)) :
    writeEffect .mcmd v s = { s with regs := { s.regs with mcmd := v &&& 0x00000001 } } := by
  have hm : writeMii .mcmd v s = s.mii := if_neg h
  rw [writeEffect, hm]
  rfl

/-- A write of MCMD that sets READ afresh starts a read cycle (R212). -/
theorem writeEffect_mcmd_start {v : Word} {s : State} (h : s.regs.mcmd.getLsbD 0 = false ∧ v.getLsbD 0 = true) :
    writeEffect .mcmd v s = { s with
      regs := { s.regs with mcmd := v &&& 0x00000001 }
      mii := .read (s.regs.madr.extractLsb' 8 5) (s.regs.madr.extractLsb' 0 5) } := by
  have hm : writeMii .mcmd v s = .read _ _ := if_pos h
  rw [writeEffect, hm]
  rfl

/-- Settles O11: each access by the register's own checks, in the order of its rule, with the sequencer idle or busy. -/
theorem miiRegisterAccess : Obligations.MiiRegisterAccess := by
  intro s v hp
  have rd (r : Reg) (hr : regWriteOnly r = false) := exec_rd_next hp hr
  have stop (r : Reg) {f : FaultSite → Fault} (hr : regReadOnly r = false) (hc : writeCheck r v s = some f) :=
    exec_wr_fault hp hr hc
  have idle (hi : s.mii = .idle) : ¬s.mii.busy = true := by rw [Mii.busy_iff]; exact not_not.2 hi
  have busy (hb : s.mii ≠ .idle) : s.mii.busy = true := (Mii.busy_iff _).2 hb
  have noScan (h : v.getLsbD 1 = false) : ¬v.getLsbD 1 = true := Bool.eq_false_iff.1 h
  refine ⟨rd .mcfg rfl, rd .mcmd rfl, rd .madr rfl, rd .mrdd rfl, exec_rd_writeOnly (r := .mwtd) hp rfl,
    exec_wr_readOnly (r := .mrdd) v hp rfl, fun hi => ⟨?_, ?_⟩, fun hi hres => ?_, fun hi hscan hkeep => ?_,
    fun hi hscan h0 h1 hres => ?_, fun hb => ⟨?_, ?_, ?_⟩, fun hi hres => ?_, fun hscan => ?_, fun hscan hb => ?_,
    fun hscan hi h0 h1 hres => ?_⟩
  · exact exec_wr_done (r := .mcfg) hp rfl (if_neg (idle hi)) nofun nofun nofun
  · exact exec_wr_done (r := .madr) hp rfl (if_neg (idle hi)) nofun nofun nofun
  · exact exec_wr_next (r := .mwtd) hp rfl ((if_neg (idle hi)).trans (if_neg (Bool.eq_false_iff.1 hres)))
  · have hc : writeCheck .mcmd v s = none :=
      (if_neg (noScan hscan)).trans ((if_neg (idle hi)).trans (if_neg fun h => hkeep ⟨h.1, h.2.1⟩))
    rw [show Instr.wrMcmd v = wrInstr .mcmd v from rfl, exec_wr_next hp rfl hc, writeEffect_mcmd_keep hkeep]
    rfl
  · have hc : writeCheck .mcmd v s = none :=
      (if_neg (noScan hscan)).trans ((if_neg (idle hi)).trans (if_neg fun h => Bool.eq_false_iff.1 hres h.2.2))
    rw [show Instr.wrMcmd v = wrInstr .mcmd v from rfl, exec_wr_next hp rfl hc, writeEffect_mcmd_start ⟨h0, h1⟩]
    rfl
  · exact stop .mcfg rfl (if_pos (busy hb))
  · exact stop .madr rfl (if_pos (busy hb))
  · exact stop .mwtd rfl (if_pos (busy hb))
  · exact stop .mwtd rfl ((if_neg (idle hi)).trans (if_pos hres))
  · exact stop .mcmd rfl (if_pos hscan)
  · exact stop .mcmd rfl ((if_neg (noScan hscan)).trans (if_pos (busy hb)))
  · exact stop .mcmd rfl ((if_neg (noScan hscan)).trans ((if_neg (idle hi)).trans (if_pos ⟨h0, h1, hres⟩)))

/-! ### Command -/

/-- A write of Command leaves the registers below 0x100 (R220). -/
theorem commandRegs_low (v : Word) (r : Regs) : { r with
    command := (commandRegs v r).command, rxDescriptor := (commandRegs v r).rxDescriptor
    rxStatus := (commandRegs v r).rxStatus, rxDescriptorNumber := (commandRegs v r).rxDescriptorNumber
    rxProduceIndex := (commandRegs v r).rxProduceIndex, rxConsumeIndex := (commandRegs v r).rxConsumeIndex
    txDescriptor := (commandRegs v r).txDescriptor, txStatus := (commandRegs v r).txStatus
    txDescriptorNumber := (commandRegs v r).txDescriptorNumber, txProduceIndex := (commandRegs v r).txProduceIndex
    txConsumeIndex := (commandRegs v r).txConsumeIndex, rxFilterCtrl := (commandRegs v r).rxFilterCtrl
    rxFilterWoLStatus := (commandRegs v r).rxFilterWoLStatus, hashFilterL := (commandRegs v r).hashFilterL
    hashFilterH := (commandRegs v r).hashFilterH, intStatus := (commandRegs v r).intStatus
    intEnable := (commandRegs v r).intEnable } = commandRegs v r := by
  unfold commandRegs
  cases v.getLsbD 3 <;> cases v.getLsbD 4 <;> cases v.getLsbD 5 <;> rfl

/-- REG_RESET puts every register from 0x100 at its reset value, the two datapath resets with it. -/
theorem commandRegs_of_reset {v : Word} (h : v.getLsbD 3 = true) (r : Regs) :
    commandRegs v r = { r.resetHigh with command := v &&& 0x000007C3 } := by
  unfold commandRegs
  cases v.getLsbD 4 <;> cases v.getLsbD 5 <;> rw [h] <;> rfl

/-- Without REG_RESET the datapath resets put their index at 0. -/
theorem commandRegs_of_noReset {v : Word} (h : v.getLsbD 3 = false) (r : Regs) : commandRegs v r = { r with
    command := v &&& 0x000007C3
    rxProduceIndex := if v.getLsbD 5 then 0 else r.rxProduceIndex
    txConsumeIndex := if v.getLsbD 4 then 0 else r.txConsumeIndex } := by
  unfold commandRegs
  cases v.getLsbD 4 <;> cases v.getLsbD 5 <;> rw [h] <;> rfl

/-- Settles O13: the registers are those of `commandRegs`, with or without REG_RESET. -/
theorem commandWrite : Obligations.CommandWrite := by
  intro s v hp
  refine ⟨exec_rd_next (r := .command) hp rfl, commandRegs v s.regs, exec_wr_next (r := .command) hp rfl rfl, rfl,
    commandRegs_low v s.regs, fun h => ?_, fun h => ?_⟩
  · rw [commandRegs_of_reset h]
    exact ⟨rfl, rfl, rfl, rfl, rfl, rfl, rfl, rfl, rfl, rfl, rfl, rfl, rfl, rfl, rfl, rfl⟩
  · rw [commandRegs_of_noReset h]
    exact ⟨rfl, rfl, rfl⟩

end Sys2Proof.Machine
end

section
/-!
PROOFS. Writes of the ring registers (spec/40_bus.md R221 to R224): the checks of the ring configuration in their order, and the index
checks on the integers.
-/

namespace Sys2Proof.Machine

/-! ### The ring configuration -/

/-- Settles O14: each write by its register's checks, of the enable bit, then of the alignment or of the two indices. -/
theorem ringConfigurationWrites : Obligations.RingConfigurationWrites := by
  intro s v hp
  have rd (r : Reg) (hr : regWriteOnly r = false) := exec_rd_next hp hr
  have stop (r : Reg) {f : FaultSite → Fault} (hr : regReadOnly r = false) (hc : writeCheck r v s = some f) :=
    exec_wr_fault hp hr hc
  have done (r : Reg) (hr : regReadOnly r = false) (h1 : r ≠ .mwtd) (h2 : r ≠ .mcmd) (h3 : r ≠ .command)
      (hc : writeCheck r v s = none) := exec_wr_done hp hr hc h1 h2 h3
  simp only [← idx_eq_mod]
  refine ⟨rd .rxDescriptor rfl, rd .rxStatus rfl, rd .rxDescriptorNumber rfl, rd .txDescriptor rfl, rd .txStatus rfl,
    rd .txDescriptorNumber rfl, fun on => ⟨?_, ?_, ?_⟩, fun on => ⟨?_, ?_, ?_⟩, fun off => ?_, fun off => ?_⟩
  · exact stop .rxDescriptor rfl (if_pos on)
  · exact stop .rxStatus rfl (if_pos on)
  · exact stop .rxDescriptorNumber rfl (if_pos on)
  · exact stop .txDescriptor rfl (if_pos on)
  · exact stop .txStatus rfl (if_pos on)
  · exact stop .txDescriptorNumber rfl (if_pos on)
  · have off' : ¬s.rxOn = true := Bool.eq_false_iff.1 off
    refine ⟨fun ha => ?_, fun ha => ?_, fun ha => ?_, fun ha => ?_, fun hP hC => ?_, fun hPC => ?_⟩
    · exact done .rxDescriptor rfl nofun nofun nofun ((if_neg off').trans (if_neg (not_not.2 ha)))
    · exact stop .rxDescriptor rfl ((if_neg off').trans (if_pos ha))
    · exact done .rxStatus rfl nofun nofun nofun ((if_neg off').trans (if_neg (not_not.2 ha)))
    · exact stop .rxStatus rfl ((if_neg off').trans (if_pos ha))
    · exact done .rxDescriptorNumber rfl nofun nofun nofun (writeCheck_rxDescriptorNumber.2 ⟨off, hP, hC⟩)
    · exact stop .rxDescriptorNumber rfl ((if_neg off').trans (if_pos hPC))
  · have off' : ¬s.txOn = true := Bool.eq_false_iff.1 off
    refine ⟨fun ha => ?_, fun ha => ?_, fun ha => ?_, fun ha => ?_, fun hP hC => ?_, fun hPC => ?_⟩
    · exact done .txDescriptor rfl nofun nofun nofun ((if_neg off').trans (if_neg (not_not.2 ha)))
    · exact stop .txDescriptor rfl ((if_neg off').trans (if_pos ha))
    · exact done .txStatus rfl nofun nofun nofun ((if_neg off').trans (if_neg (not_not.2 ha)))
    · exact stop .txStatus rfl ((if_neg off').trans (if_pos ha))
    · exact done .txDescriptorNumber rfl nofun nofun nofun (writeCheck_txDescriptorNumber.2 ⟨off, hP, hC⟩)
    · exact stop .txDescriptorNumber rfl ((if_neg off').trans (if_pos hPC))

/-! ### The ring indices -/

/-- An index as the integer the statements speak of (R9). -/
theorem idx_int (w : Word) : (w.toNat : Int) % 65536 = idx w := by
  rw [idx_eq_mod]
  exact (Int.natCast_emod _ _).symm

theorem nr_int (s : State) : (idx s.regs.rxDescriptorNumber : Int) + 1 = s.nr := rfl

theorem nt_int (s : State) : (idx s.regs.txDescriptorNumber : Int) + 1 = s.nt := rfl

/-- `(a - b) mod n` on the integers is the model's difference of naturals, for a ring size `n`. -/
theorem emod_sub_int (a b n : Nat) : ((a : Int) - b) % ((n + 1 : Nat) : Int) = subMod a b (n + 1) :=
  (subMod_int a b (n + 1) (Nat.succ_pos n)).symm

/-- Settles O15: the integer comparisons are the model's, cast; R223's limit `C - 1` is the distance of C from `P + 1`. -/
theorem ringIndexWrites : Obligations.RingIndexWrites := by
  intro s v hp
  have rd (r : Reg) (hr : regWriteOnly r = false) := exec_rd_next hp hr
  have stop (r : Reg) {f : FaultSite → Fault} (hr : regReadOnly r = false) (hc : writeCheck r v s = some f) :=
    exec_wr_fault hp hr hc
  refine ⟨rd .rxProduceIndex rfl, rd .rxConsumeIndex rfl, rd .txProduceIndex rfl, rd .txConsumeIndex rfl,
    exec_wr_readOnly (r := .rxProduceIndex) v hp rfl, exec_wr_readOnly (r := .txConsumeIndex) v hp rfl, ?_, ?_⟩
  · rintro n c p NR rfl rfl rfl rfl
    have dist (w : Word) : ((idx w : Int) - idx s.regs.rxConsumeIndex) % (s.nr : Int) =
        subMod (idx w) (idx s.regs.rxConsumeIndex) s.nr := emod_sub_int _ _ _
    simp only [idx_int, nr_int, dist, ge_iff_le, gt_iff_lt, Nat.cast_lt, Nat.cast_le]
    refine ⟨fun hn => stop .rxConsumeIndex rfl (if_pos hn), fun hn on hgt => ?_, fun hn hle => ?_⟩
    · exact stop .rxConsumeIndex rfl ((if_neg (Nat.not_le.2 hn)).trans (if_pos ⟨on, hgt⟩))
    · exact exec_wr_done (r := .rxConsumeIndex) hp rfl (writeCheck_rxConsumeIndex.2 ⟨hn, hle⟩) nofun nofun nofun
  · rintro n c p NT rfl rfl rfl rfl
    have dist (w : Word) : ((idx w : Int) - idx s.regs.txProduceIndex) % (s.nt : Int) =
        subMod (idx w) (idx s.regs.txProduceIndex) s.nt := emod_sub_int _ _ _
    have limit : ((idx s.regs.txConsumeIndex : Int) - 1 - idx s.regs.txProduceIndex) % (s.nt : Int) =
        subMod (idx s.regs.txConsumeIndex) (idx s.regs.txProduceIndex + 1) s.nt := by
      rw [Int.sub_sub, Int.add_comm]
      exact emod_sub_int _ _ _
    simp only [idx_int, nt_int, dist, limit, ge_iff_le, gt_iff_lt, Nat.cast_lt, Nat.cast_le]
    refine ⟨fun hn => stop .txProduceIndex rfl (if_pos hn), fun hn on hgt => ?_, fun hn hle => ?_⟩
    · exact stop .txProduceIndex rfl ((if_neg (Nat.not_le.2 hn)).trans (if_pos ⟨on, hgt⟩))
    · exact exec_wr_done (r := .txProduceIndex) hp rfl (writeCheck_txProduceIndex.2 ⟨hn, hle⟩) nofun nofun nofun

end Sys2Proof.Machine
end

section
/-!
PROOFS. What a register holds after a write (spec/40_bus.md R233) and what the BUS commands leave (R203 to R232).
-/

namespace Sys2Proof.Machine

/-! ### Accepted commands -/

/-- A BUS-R that answers leaves the state but for its event, its result and the next line (R203). -/
theorem exec_rd_inv {r : Reg} {s t : State} (h : exec (rdInstr r) s = .next t) : t = readDone r (readReg r s) s := by
  rw [exec_rdInstr] at h
  obtain ⟨v, u, hu, rfl⟩ := answer_ok h
  obtain ⟨_, _, rfl, rfl⟩ := busRead_ok hu
  rfl

/-- A BUS-W that answers was accepted, and its effect is `writeEffect` (R203). -/
theorem exec_wr_inv {r : Reg} {v : Word} {s t : State} (h : exec (wrInstr r v) s = .next t) :
    s.powered = true ∧ t = ((writeEffect r v s).log (.bus s.agent r.offset .write v)).next := by
  rw [exec_wrInstr] at h
  obtain ⟨u, hu, rfl⟩ := answerKeep_ok h
  obtain ⟨hp, _, _, rfl⟩ := busWrite_ok hu
  exact ⟨hp, rfl⟩

/-- A stored value is read from the registers alone; MIND and Status are computed. -/
theorem readReg_congr {q : Reg} {s t : State} (hm : q ≠ .mind) (hs : q ≠ .status) (h : t.regs = s.regs) :
    readReg q t = readReg q s := by
  cases q <;> first | contradiction | simp only [readReg, h]

/-! ### A read after a write -/

/-- The bits a readable and writable register stores (R204 to R230). -/
def storedBits : Reg → Option Word
  | .mac1 => some 0x0000CF1F
  | .mac2 => some 0x000073FF
  | .ipgt => some 0x0000007F
  | .ipgr => some 0x00007F7F
  | .clrt => some 0x00003F0F
  | .supp => some 0x00000900
  | .mcfg => some 0x0000803F
  | .mcmd => some 0x00000001
  | .madr => some 0x00001F1F
  | .command => some 0x000007C3
  | .rxDescriptor | .txDescriptor | .txStatus => some 0xFFFFFFFC
  | .rxStatus => some 0xFFFFFFF8
  | .maxf | .sa0 | .sa1 | .sa2 | .rxDescriptorNumber | .rxConsumeIndex | .txDescriptorNumber | .txProduceIndex =>
    some 0x0000FFFF
  | .rxFilterCtrl => some 0x0000303F
  | .hashFilterL | .hashFilterH => some 0xFFFFFFFF
  | .intEnable => some 0x000030FF
  | _ => none

theorem readReg_of_written {r : Reg} {mask v : Word} {regs : Regs} {t : State} (hr : storedBits r = some mask)
    (ht : t.regs = writeRegs r v regs) : readReg r t = v &&& mask := by
  cases r <;> cases hr <;> simp only [readReg, ht, writeRegs, commandRegs, intDefinedMask_eq]
  case hashFilterL => exact (BitVec.and_allOnes).symm
  case hashFilterH => exact (BitVec.and_allOnes).symm

/-- A hardware agent leaves the driver's indices (R86, R233). -/
theorem HardwareRegs.hostIndices {r r' : Regs} (h : HardwareRegs r r') :
    r'.rxConsumeIndex = r.rxConsumeIndex ∧ r'.txProduceIndex = r.txProduceIndex := by
  cases h <;> exact ⟨rfl, rfl⟩

/-- Settles O16: the registers of the list store `storedBits` of the value, and no hardware agent writes the driver's indices. -/
theorem readAfterWrite : Obligations.ReadAfterWrite := by
  refine ⟨fun r mask v s t hr h => ?_, fun o d s => ?_⟩
  · have hbits : storedBits r = some mask :=
      (by decide : ∀ p ∈ (_ : List (Reg × Word)), storedBits p.1 = some p.2) (r, mask) hr
    have hread : regWriteOnly r = false := by cases r <;> first | rfl | cases hbits
    obtain ⟨hp, rfl⟩ := exec_wr_inv h
    rw [exec_rd_next (by simpa using hp) hread, readReg_of_written (v := v) (regs := s.regs) hbits (by simp)]
  · obtain ⟨hrc, hrp⟩ := (rxdmaStep_regs o s).hostIndices
    obtain ⟨htc, htp⟩ := (txdmaStep_regs d s).hostIndices
    exact ⟨hrc, hrp, htc, htp⟩

end Sys2Proof.Machine
end

section
/-!
PROOFS. The register frames (spec/40_bus.md R203 to R232, spec/00_scope.md R14): what the first step of each command and each micro-step
of an operation leaves of the registers and of the rest of the block.
-/

namespace Sys2Proof.Machine

/-! ### BUS commands -/

/-- The register whose stored value a write of `r` changes, Command apart: RxFilterWoLClear, IntClear and IntSet act on a status
register (R227, R231, R232). -/
def changedReg : Reg → Reg
  | .rxFilterWoLClear => .rxFilterWoLStatus
  | .intClear | .intSet => .intStatus
  | r => r

theorem changedReg_cases (r : Reg) : changedReg r = r ∨ (r, changedReg r) ∈
    [(Reg.rxFilterWoLClear, Reg.rxFilterWoLStatus), (Reg.intClear, Reg.intStatus), (Reg.intSet, Reg.intStatus)] := by
  cases r <;> decide

theorem readReg_writeRegs_other {r q : Reg} {v : Word} {s t : State} (hc : r ≠ .command) (hq : q ≠ changedReg r)
    (hm : q ≠ .mind) (hs : q ≠ .status) (ht : t.regs = writeRegs r v s.regs) : readReg q t = readReg q s := by
  rw [readReg_congr (s := { s with regs := writeRegs r v s.regs }) hm hs ht]
  cases r <;> first | exact absurd rfl hc | (cases q <;> first | rfl | exact absurd rfl hq)

/-- Only MWTD and MCMD start a management cycle (R211, R212). -/
theorem writeMii_other {r : Reg} (v : Word) (s : State) (h1 : r ≠ .mwtd) (h2 : r ≠ .mcmd) : writeMii r v s = s.mii := by
  cases r <;> first | rfl | contradiction

/-- Only Command ends the frame in progress (R220). -/
theorem endsFrame_other {r : Reg} (v : Word) (h : r ≠ .command) : endsFrame r v = false := by
  cases r <;> first | rfl | contradiction

/-! ### The first step of a command that is no BUS-W -/

/-- The registers with MADR addressing register `reg` of PHY 1 (R352). -/
def addressRegs (reg : Nat) (s : State) : Regs := { s.regs with madr := BitVec.ofNat 32 (256 + reg) }

/-- The registers after the first step of a command that is no BUS-W (R352, R358, R404). -/
def firstRegs (i : Instr) (s : State) : Regs :=
  match i with
  | .writePhy reg _ => addressRegs reg s
  | .readPhy reg => addressRegs reg s
  | .detectPhy => addressRegs 2 s
  | .checkStatus _ => addressRegs 1 s
  | .updateStatus => addressRegs 1 s
  | .setMode mode => if mode.toNat ≤ 4 then addressRegs 0 s else s.regs
  | .deinit => if s.powered then { s.regs with intEnable := 0 } else s.regs
  | _ => s.regs

theorem firstRegs_other {i : Instr} {s : State} (h1 : ∀ reg value, i ≠ .writePhy reg value) (h2 : ∀ reg, i ≠ .readPhy reg)
    (h3 : i ≠ .detectPhy) (h4 : ∀ kind, i ≠ .checkStatus kind) (h5 : ∀ mode, i ≠ .setMode mode) (h6 : i ≠ .updateStatus)
    (h7 : i ≠ .deinit) : firstRegs i s = s.regs := by
  cases i
  case writePhy => exact absurd rfl (h1 _ _)
  case readPhy => exact absurd rfl (h2 _)
  case detectPhy => exact absurd rfl h3
  case checkStatus => exact absurd rfl (h4 _)
  case setMode => exact absurd rfl (h5 _)
  case updateStatus => exact absurd rfl h6
  case deinit => exact absurd rfl h7
  all_goals rfl

/-- The access of the first step of a command that is no BUS-W: it leaves the block but for `firstRegs`, or switches it on, or ends the
engine of an unpowered one, or writes the callback table. -/
inductive FirstAccess (i : Instr) (s : State) : State → Prop where
  | block (m : Memory) (es : List Event) :
      FirstAccess i s { s with regs := firstRegs i s, mem := m, hist := es ++ s.hist }
  | powerOn (mac : List Byte) (mode : Word) : i = .init mac mode →
      FirstAccess i s { s with powered := true, drv := .resetting }
  | unpowered : i = .deinit → s.powered = false → FirstAccess i s { s with drv := .uninitialized, link := .unknown }
  | setCb (mask : Word) (fn : Option CallbackId) (c : Vector (Option CallbackId) 10) : i = .setupCallback mask fn →
      FirstAccess i s { s with cb := c }

/-- What the first step of a command that is no BUS-W does. -/
def FirstStep (i : Instr) (s t : State) : Prop := ∃ u, FirstAccess i s u ∧ Moves u t

section
variable {i : Instr} {s t : State}

theorem firstStep_block (m : Memory) (es : List Event)
    (h : Moves { s with regs := firstRegs i s, mem := m, hist := es ++ s.hist } t) : FirstStep i s t := ⟨_, .block m es, h⟩

theorem firstStep_quiet (hi : firstRegs i s = s.regs) (m : Memory) (es : List Event)
    (h : Moves { s with mem := m, hist := es ++ s.hist } t) : FirstStep i s t :=
  firstStep_block m es (by rw [hi]; exact h)

theorem firstStep_busRead {r : Reg} (hi : firstRegs i s = s.regs) (h : answer (busRead r s) = .next t) :
    FirstStep i s t := by
  obtain ⟨v, u, hu, rfl⟩ := answer_ok h
  obtain ⟨_, _, _, rfl⟩ := busRead_ok hu
  exact firstStep_quiet hi s.mem [_] (finish_moves _ _)

theorem firstStep_doRead {r : Reg} {k : Word → State → Except Fault (State × Cont)} (hi : firstRegs i s = s.regs)
    (hk : ∀ v u x, k v u = .ok x → x.1 = u) (h : opAnswer (doRead r s k) = .next t) : FirstStep i s t := by
  obtain ⟨x, hx, rfl⟩ := opAnswer_ok h
  obtain ⟨v, u, hu, hku⟩ := doRead_ok hx
  obtain rfl := hk v u x hku
  have hmove := settle_moves x
  rw [(busRead_ok hu).2.2.2] at hmove
  exact firstStep_quiet hi s.mem [_] hmove

theorem firstStep_write {r : Reg} {v : Word} {u : State} (hi : firstRegs i s = writeRegs r v s.regs) (h1 : r ≠ .mwtd)
    (h2 : r ≠ .mcmd) (h3 : r ≠ .command) (hu : busWrite r v s = .ok u) (hm : Moves u t) : FirstStep i s t := by
  rw [(busWrite_ok hu).2.2.2, writeEffect_plain v s h1 h2 h3] at hm
  refine firstStep_block s.mem [.bus s.agent r.offset .write v] ?_
  rw [hi]
  exact hm

/-- MADR addresses register `reg` of PHY 1: its value passes the write mask (R215, R352). -/
theorem writeRegs_madrValue {reg : Nat} (hreg : reg < 32) :
    writeRegs .madr (madrValue (BitVec.ofNat 5 reg)) s.regs = addressRegs reg s := by
  have hv : madrValue (BitVec.ofNat 5 reg) &&& 0x00001F1F = BitVec.ofNat 32 (256 + reg) := by
    interval_cases reg <;> rfl
  rw [addressRegs, ← hv]
  rfl

/-- The first step of a PHY operation is the MADR write. -/
theorem firstStep_doAddress {reg : Nat} {k : State → State × Cont} (hreg : reg < 32)
    (hi : firstRegs i s = addressRegs reg s) (hk : ∀ u, (k u).1 = u)
    (h : opAnswer (doAddress (BitVec.ofNat 5 reg) s k) = .next t) : FirstStep i s t := by
  obtain ⟨⟨u, c⟩, hx, rfl⟩ := opAnswer_ok h
  obtain ⟨_, w, hw, hkw⟩ := doAddress_ok hx
  obtain rfl : w = u := by rw [← hk w, hkw]
  exact firstStep_write (hi.trans (writeRegs_madrValue hreg).symm) nofun nofun nofun hw (settle_moves (w, c))

/-- A BUS-W is none of these commands. -/
theorem firstStep_busWrite {r : Reg} {v : Word} (hw : ∀ (r : Reg) (v : Word), i ≠ wrInstr r v)
    (_ : answerKeep (busWrite r v s) = .next t) (hi : i = wrInstr r v) : FirstStep i s t := absurd hi (hw r v)

end

theorem bmcrValue_eq_none_iff {mode : Word} : bmcrValue mode = none ↔ ¬mode.toNat ≤ 4 := by
  unfold bmcrValue
  split <;> simp_all
  omega

/-- A command that is no BUS-W and answers a next state does one step of `FirstStep`. -/
theorem exec_firstStep {i : Instr} {s t : State} (h : exec i s = .next t) (hw : ∀ (r : Reg) (v : Word), i ≠ wrInstr r v) :
    FirstStep i s t := by
  cases i <;> simp only [exec, execInitRxRing, execInitTxRing, execWriteTxPacket, execReadRxPacket, execWritePhy,
    execReadPhy, execSetMode, execInit, execDeinit, execSetHashFilter, execSetupCallback, execDispatch, execBeq, execBne,
    execJmp] at h
  case initRxRing | initTxRing =>
    split at h; · cases h
    refine firstStep_doRead rfl (fun v u x hx => ?_) h
    split at hx <;> cases hx
    rfl
  case writeTxPacket =>
    split at h; · cases h
    split at h; · cases h
    split at h; · cases h
    refine firstStep_doRead rfl (fun v u x hx => ?_) h
    split at hx <;> cases hx
    rfl
  case readRxPacket =>
    split at h; · cases h
    split at h; · cases h
    split at h; · cases h
    refine firstStep_doRead rfl (fun v u x hx => ?_) h
    split at hx
    · cases hx
    · split at hx <;> cases hx <;> rfl
  case advanceConsume | advanceProduce | checkReceiveIndex | checkTransmitIndex =>
    exact firstStep_doRead rfl (fun v u x hx => by cases hx; rfl) h
  case writePhy reg value =>
    split at h
    · rename_i hwf
      rw [Bool.and_eq_true] at hwf
      exact firstStep_doAddress (of_decide_eq_true hwf.1) rfl (fun _ => rfl) h
    · cases h
  case readPhy reg =>
    split at h
    · exact firstStep_doAddress (of_decide_eq_true ‹_›) rfl (fun _ => rfl) h
    · cases h
  case detectPhy => exact firstStep_doAddress (reg := 2) (by decide) rfl (fun _ => rfl) h
  case checkStatus | updateStatus => exact firstStep_doAddress (reg := 1) (by decide) rfl (fun _ => rfl) h
  case setMode mode =>
    split at h
    · rename_i hb
      have hmode : mode.toNat ≤ 4 := by
        by_contra hn
        rw [bmcrValue_eq_none_iff.2 hn] at hb
        cases hb
      exact firstStep_doAddress (reg := 0) (by decide) (if_pos hmode) (fun _ => rfl) h
    · cases h
      exact firstStep_quiet (if_neg (bmcrValue_eq_none_iff.1 ‹_›)) s.mem [] (finish_moves _ _)
  case init mac mode =>
    split at h; · cases h
    split at h; · cases h
    split at h <;> cases h
    exact ⟨_, .powerOn mac mode rfl, putOp_moves _ _⟩
  case deinit =>
    split at h; · cases h
    split at h
    · rename_i hp
      obtain ⟨⟨u, c⟩, hx, rfl⟩ := opAnswer_ok h
      obtain ⟨w, hw, hk⟩ := doWrite_ok hx
      cases hk
      exact firstStep_write (r := .intEnable) (v := 0) (if_pos hp) nofun nofun nofun hw (putOp_moves _ _)
    · rename_i hp
      cases h
      exact ⟨_, .unpowered rfl (Bool.eq_false_iff.2 hp), finish_moves _ _⟩
  case setHashFilter addr enable =>
    split at h
    · cases he : (enable == 1) <;> rw [he] at h <;> exact firstStep_doRead rfl (fun v u x hx => by cases hx; rfl) h
    · cases h
  case setupCallback mask fn =>
    split at h; · cases h
    split at h <;> cases h
    · exact firstStep_quiet rfl s.mem [] (finish_moves _ _)
    · exact ⟨_, .setCb mask fn _ rfl, finish_moves _ _⟩
  case dispatch =>
    split at h
    · rename_i st hst
      unfold thenRead at h
      split at h <;> cases h
      obtain ⟨_, _, _, rfl⟩ := busRead_ok ‹_›
      exact firstStep_quiet rfl s.mem [_] (setIrq_moves (by simp [hst]))
    · cases h
  case crc32 => cases h; exact firstStep_quiet rfl s.mem [] (finish_moves _ _)
  case memRead32 =>
    obtain ⟨v, u, hu, rfl⟩ := answer_ok h
    obtain ⟨_, _, rfl⟩ := hostRead_ok hu
    exact firstStep_quiet rfl s.mem [_] (finish_moves _ _)
  case memWrite32 =>
    obtain ⟨u, hu, rfl⟩ := answerKeep_ok h
    obtain ⟨_, _, rfl⟩ := hostWrite_ok hu
    exact firstStep_quiet rfl _ [_] (next_moves _)
  case delayMs => cases h; exact firstStep_quiet rfl s.mem [_] (next_moves _)
  case beq | bne =>
    split at h
    · cases h; split; exacts [firstStep_quiet rfl s.mem [] (goTo_moves _ _), firstStep_quiet rfl s.mem [] (next_moves _)]
    · cases h
  case jmp =>
    split at h <;> cases h
    exact firstStep_quiet rfl s.mem [] (goTo_moves _ _)
  case halt => cases h; exact firstStep_quiet rfl s.mem [] (haltAgent_moves _)
  all_goals first | exact firstStep_busRead rfl h | exact firstStep_busWrite hw h rfl

section
variable {i : Instr} {s t : State}

theorem FirstStep.regs (h : FirstStep i s t) : t.regs = firstRegs i s := by
  obtain ⟨u, hu, hv⟩ := h
  rw [hv.frame]
  cases hu with
  | block => rfl
  | powerOn _ _ hi | setCb _ _ _ hi => rw [hi]; rfl
  | unpowered hi hp => rw [hi]; exact (if_neg (Bool.eq_false_iff.1 hp)).symm

theorem FirstStep.frame (h : FirstStep i s t) : t.mii = s.mii ∧ t.rxRingInit = s.rxRingInit ∧
    t.txRingInit = s.txRingInit ∧ t.rxMidFrame = s.rxMidFrame ∧ t.rxRemain = s.rxRemain := by
  obtain ⟨u, hu, hv⟩ := h
  rw [hv.frame]
  cases hu <;> exact ⟨rfl, rfl, rfl, rfl, rfl⟩

theorem FirstStep.cb (h : FirstStep i s t) (hi : ∀ mask fn, i ≠ .setupCallback mask fn) : t.cb = s.cb := by
  obtain ⟨u, hu, hv⟩ := h
  rw [hv.frame]
  cases hu with
  | block | powerOn | unpowered => rfl
  | setCb mask fn _ h => exact absurd h (hi mask fn)

theorem FirstStep.powered (h : FirstStep i s t) (hi : ∀ mac mode, i ≠ .init mac mode) : t.powered = s.powered := by
  obtain ⟨u, hu, hv⟩ := h
  rw [hv.frame]
  cases hu with
  | block | setCb | unpowered => rfl
  | powerOn mac mode h => exact absurd h (hi mac mode)

theorem FirstStep.engine (h : FirstStep i s t) (hi : ∀ mac mode, i ≠ .init mac mode) (hd : i ≠ .deinit) :
    t.drv = s.drv ∧ t.link = s.link := by
  obtain ⟨u, hu, hv⟩ := h
  rw [hv.frame]
  cases hu with
  | block | setCb => exact ⟨rfl, rfl⟩
  | powerOn mac mode h => exact absurd h (hi mac mode)
  | unpowered h => exact absurd h hd

end

/-! ### The micro-steps of an operation -/

/-- Where it answers, `r` leaves the registers, or makes the register write `w`. -/
def OneWrite (w : Option (Reg × Word)) (s : State) (r : Except Fault (State × Cont)) : Prop :=
  ∀ x, r = .ok x → x.1.regs = s.regs ∨ ∃ r v, w = some (r, v) ∧ x.1.regs = writeRegs r v s.regs

theorem Marks.regs {s t : State} (h : Marks s t) : t.regs = s.regs := by rw [h.2.2]

section
variable {w : Option (Reg × Word)} {s : State}

theorem oneWrite_ok {x : State × Cont} (h : x.1.regs = s.regs) : OneWrite w s (.ok x) := by
  rintro _ ⟨⟩
  exact .inl h

theorem oneWrite_doRead {r : Reg} {k : Word → State → Except Fault (State × Cont)}
    (hk : ∀ v u x, k v u = .ok x → x.1.regs = u.regs) : OneWrite w s (doRead r s k) := by
  intro x h
  obtain ⟨v, u, hu, hx⟩ := doRead_ok h
  rw [hk v u x hx, (busRead_ok hu).2.2.2]
  exact .inl rfl

theorem oneWrite_doWrite {r : Reg} {v : Word} {k : State → State × Cont} (hw : w = some (r, v))
    (hk : ∀ u, (k u).1.regs = u.regs) : OneWrite w s (doWrite r v s k) := by
  rintro ⟨t, c⟩ h
  obtain ⟨u, hu, hx⟩ := doWrite_ok h
  have ht : t.regs = u.regs := by rw [← hk u, hx]
  rw [ht, (busWrite_ok hu).2.2.2]
  exact .inr ⟨r, v, hw, rfl⟩

theorem oneWrite_doAddress {reg : MiiAddr} {k : State → State × Cont} (hw : w = some (.madr, madrValue reg))
    (hk : ∀ u, (k u).1.regs = u.regs) : OneWrite w s (doAddress reg s k) := by
  intro x h
  unfold doAddress at h
  split at h
  · cases h
  · exact oneWrite_doWrite hw hk x h

theorem oneWrite_doMemRead {a : Nat} {k : Word → State → State × Cont} (hk : ∀ v u, (k v u).1.regs = u.regs) :
    OneWrite w s (doMemRead a s k) := by
  rintro ⟨t, c⟩ h
  obtain ⟨v, u, hu, hx⟩ := doMemRead_ok h
  have ht : t.regs = u.regs := by rw [← hk v u, hx]
  rw [ht, (hostRead_ok hu).2.2]
  exact .inl rfl

theorem oneWrite_doMemWrite {a : Nat} {v : Word} {k : State → State × Cont} (hk : ∀ u, (k u).1.regs = u.regs) :
    OneWrite w s (doMemWrite a v s k) := by
  rintro ⟨t, c⟩ h
  obtain ⟨u, hu, hx⟩ := doMemWrite_ok h
  have ht : t.regs = u.regs := by rw [← hk u, hx]
  rw [ht, (hostWrite_ok hu).2.2]
  exact .inl rfl

end

theorem resume_regs (v : Word) (fs : List OpFrame) (s : State) : (resume v fs s).1.regs = s.regs := (resume_marks v fs s).regs

theorem seqRest_regs (ms : List Micro) (fs : List OpFrame) (s : State) : (seqRest ms fs s).1.regs = s.regs :=
  (seqRest_marks ms fs s).regs

theorem rxNext_regs (pkt dst len j : Nat) (fs : List OpFrame) (s : State) : (rxNext pkt dst len j fs s).1.regs = s.regs :=
  (rxNext_marks pkt dst len j fs s).regs

theorem seqStep_oneWrite (m : Micro) (ms : List Micro) (fs : List OpFrame) (s : State) :
    OneWrite (writtenReg (.seq (m :: ms) :: fs)) s (seqStep m ms fs s) := by
  cases m with
  | write r v => exact oneWrite_doWrite rfl (seqRest_regs ms fs)
  | setBits r m => exact oneWrite_doRead fun _ _ _ hx => by cases hx; rfl
  | clrBits r m => exact oneWrite_doRead fun _ _ _ hx => by cases hx; rfl
  | memWrite a v => exact oneWrite_doMemWrite (seqRest_regs ms fs)
  | delay => exact oneWrite_ok (seqRest_regs ms fs s)
  | powerOff => exact oneWrite_ok (seqRest_regs ms fs _)

/-- A micro-step leaves the registers, or makes the write `writtenReg` names. -/
theorem microStep_oneWrite (fs : List OpFrame) (s : State) : OneWrite (writtenReg fs) s (microStep fs s) := by
  cases fs with
  | nil => exact oneWrite_ok rfl
  | cons f fs =>
    cases f with
    | seq ms =>
      cases ms with
      | nil => exact oneWrite_ok (resume_regs _ _ _)
      | cons m ms => exact seqStep_oneWrite m ms fs s
    | initRx | initTx =>
      refine oneWrite_doRead fun _ u _ hx => ?_
      split at hx <;> cases hx
      rfl
    | txPkt | txRead | rxRead => exact oneWrite_doMemRead fun _ _ => rfl
    | rxPkt c dst len => exact oneWrite_doMemRead fun _ => rxNext_regs _ _ _ _ _
    | txWrite => exact oneWrite_doMemWrite fun _ => rfl
    | txCtl => exact oneWrite_doMemWrite (resume_regs _ _)
    | rxWrite => exact oneWrite_doMemWrite (rxNext_regs _ _ _ _ _)
    | chkRx | chkTx | rpData => exact oneWrite_doRead fun _ _ _ hx => by cases hx; exact resume_regs _ _ _
    | wpMadr | rpMadr => exact oneWrite_doAddress rfl fun _ => rfl
    | wpMwtd | rpMcmd | rpClear => exact oneWrite_doWrite rfl fun _ => rfl
    | wpPoll left =>
      refine oneWrite_doRead fun _ u _ hx => ?_
      split at hx
      · cases hx; exact resume_regs _ _ _
      · cases left <;> cases hx
        exacts [resume_regs _ _ _, rfl]
    | rpPoll left =>
      refine oneWrite_doRead fun _ u _ hx => ?_
      split at hx
      · cases hx; rfl
      · cases left <;> cases hx
        exacts [resume_regs _ _ _, rfl]
    | updDelay left =>
      cases left
      · exact oneWrite_ok (resume_regs _ _ _)
      · exact oneWrite_ok rfl
    | _ => exact oneWrite_ok (resume_regs _ _ _)

/-! ### The obligation -/

/-- Settles O17: BUS commands by `writeEffect`, the other commands by `FirstStep`, the micro-steps by `OneWrite`. -/
theorem registerFrames : Obligations.RegisterFrames := by
  refine ⟨fun r s t h => ?_, fun r v s t h => ?_, fun i s t madr h hw hmadr => ?_, fun s t h => ?_⟩
  · rw [exec_rd_inv h]
    exact ⟨State.finish_regs _ _, State.finish_mii _ _, State.finish_mem _ _⟩
  · obtain ⟨_, rfl⟩ := exec_wr_inv h
    refine ⟨State.next_mem _, State.next_powered _, State.next_cb _, State.next_drv _, State.next_link _,
      State.next_rxRingInit _, State.next_txRingInit _, State.next_ret _, State.next_irqRet _,
      fun h1 h2 => (State.next_mii _).trans (writeMii_other v s h1 h2), fun hc => ?_, fun q hq hm hs hc hact => ?_⟩
    · simp [writeEffect, endsFrame_other v hc]
    · have hq' : q ≠ changedReg r := fun e =>
        (changedReg_cases r).elim (fun same => hq (e.trans same)) fun act => hact (e ▸ act)
      exact readReg_writeRegs_other hc hq' hm hs (State.next_regs _)
  · have hs := exec_firstStep h hw
    obtain ⟨hmii, hrx, htx, hmid, hrem⟩ := hs.frame
    obtain rfl : madr = fun reg => addressRegs reg s := funext hmadr
    refine ⟨?_, ?_, ?_, ?_, ?_, ?_, ?_, ?_, hmii, hrx, htx, hmid, hrem, hs.cb,
      fun hi => ⟨hs.powered hi, hs.engine hi⟩⟩
    · rintro reg value rfl; exact hs.regs
    · rintro reg rfl; exact hs.regs
    · rintro rfl; exact hs.regs
    · rintro kind rfl; exact hs.regs
    · rintro mode rfl; exact hs.regs
    · rintro rfl; exact hs.regs
    · rintro rfl; exact hs.regs
    · intro h1 h2 h3 h4 h5 h6 h7
      exact hs.regs.trans (firstRegs_other h1 h2 h3 h4 h5 h6 h7)
  · obtain ⟨x, hx, rfl⟩ := opAnswer_ok h
    rw [(settle_moves x).frame]
    exact microStep_oneWrite _ _ x hx

end Sys2Proof.Machine
end

section
/-!
PROOFS. Power and access rights (spec/40_bus.md R200 to R203, spec/60_exceptions.md R616): on an unpowered block each transaction stops
at its power check, whichever agent makes it.
-/

namespace Sys2Proof.Machine

/-! ### Transactions of an unpowered block -/

section
variable {s : State} (hp : s.powered = false) (r : Reg)
include hp

theorem busRead_unpowered : busRead r s = .error (.unpowered (s.site (some r.offset.toNat))) := if_pos hp

theorem busWrite_unpowered (v : Word) : busWrite r v s = .error (.unpowered (s.site (some r.offset.toNat))) := if_pos hp

theorem doRead_unpowered (k : Word → State → Except Fault (State × Cont)) :
    doRead r s k = .error (.unpowered (s.site (some r.offset.toNat))) := by
  rw [doRead, busRead_unpowered hp]

theorem doWrite_unpowered (v : Word) (k : State → State × Cont) :
    doWrite r v s k = .error (.unpowered (s.site (some r.offset.toNat))) := by
  rw [doWrite, busWrite_unpowered hp]

/-- The overlap check of R708 asks for power, so it is silent here. -/
theorem doAddress_unpowered (reg : MiiAddr) (k : State → State × Cont) :
    doAddress reg s k = .error (.unpowered (s.site (some Reg.madr.offset.toNat))) := by
  have hsplit : s.phySplit = false := by simp [State.phySplit, hp]
  rw [doAddress, hsplit]
  exact doWrite_unpowered hp .madr _ k

theorem thenRead_unpowered (k : Word → State → State) :
    thenRead (busRead r s) k = .fault (.unpowered (s.site (some r.offset.toNat))) := by
  rw [busRead_unpowered hp, thenRead]

theorem thenWrite_unpowered (v : Word) (k : State → State) :
    thenWrite (busWrite r v s) k = .fault (.unpowered (s.site (some r.offset.toNat))) := by
  rw [busWrite_unpowered hp, thenWrite]

theorem exec_rd_unpowered : exec (rdInstr r) s = .fault (.unpowered (s.site (some r.offset.toNat))) := by
  rw [exec_rdInstr, busRead_unpowered hp, answer]

theorem exec_wr_unpowered (v : Word) : exec (wrInstr r v) s = .fault (.unpowered (s.site (some r.offset.toNat))) := by
  rw [exec_wrInstr, busWrite_unpowered hp, answerKeep]

theorem opAnswer_doRead_unpowered (k : Word → State → Except Fault (State × Cont)) :
    opAnswer (doRead r s k) = .fault (.unpowered (s.site (some r.offset.toNat))) := by
  rw [doRead_unpowered hp, opAnswer]

end

/-- A micro-step of an operation that makes a bus transaction faults at its register. -/
theorem microStep_unpowered {fs : List OpFrame} {s : State} {r : Reg} (hp : s.powered = false)
    (h : accessedReg fs = some r) : microStep fs s = .error (.unpowered (s.site (some r.offset.toNat))) := by
  unfold accessedReg at h
  split at h <;> cases h
  case h_2 | h_3 | h_4 | h_5 | h_6 | h_7 | h_13 | h_14 | h_15 => exact doRead_unpowered hp ..
  case h_8 | h_9 => exact doAddress_unpowered hp ..
  case h_1 | h_10 | h_11 | h_12 => exact doWrite_unpowered hp ..

theorem opRun_unpowered {fs : List OpFrame} {s : State} {r : Reg} (hp : s.powered = false)
    (h : accessedReg fs = some r) : opRun fs s = .fault (.unpowered (s.site (some r.offset.toNat))) := by
  rw [opRun, microStep_unpowered hp h, opAnswer]

/-! ### Program lines and DISPATCH -/

/-- A word-aligned BUS line of an unpowered block faults at its offset, in scope or not (R203). -/
theorem runLine_bus_unpowered {s : State} (hp : s.powered = false) {dir : Dir} {off : BitVec 12} {args : List Arg}
    (ha : off.extractLsb' 0 2 = 0#2)
    (hargs : dir = .read ∧ args = [] ∨ dir = .write ∧ ∃ w : Word, args = [.num w.toNat]) :
    runLine ⟨busWord dir off, args⟩ s = .fault (.unpowered (s.site (some off.toNat))) := by
  cases hr : regAt off with
  | none =>
    rw [runLine_hole s (decodeLine_hole ha hargs hr)]
    exact if_pos hp
  | some r =>
    obtain rfl := offset_of_regAt hr
    rcases hargs with ⟨rfl, rfl⟩ | ⟨rfl, w, rfl⟩
    · rw [runLine, decodeLine_read]
      exact exec_rd_unpowered hp r
    · rw [runLine, decodeLine_write]
      exact exec_wr_unpowered hp r w

section
variable {s : State} {st : Word} (hp : s.powered = false)
include hp

theorem irqStep_start_unpowered (h : s.irq = .running st .start) :
    irqStep s = .fault (.unpowered (s.site (some 0xFE0))) := by
  have hrun : runLine dispatchLine s = execDispatch s := rfl
  rw [irqStep, h, hrun, execDispatch, h]
  exact thenRead_unpowered hp .intStatus _

theorem irqStep_readEnable_unpowered {x : Word} (h : s.irq = .running st (.readEnable x)) :
    irqStep s = .fault (.unpowered (s.site (some 0xFE4))) := by
  rw [irqStep, h]
  exact thenRead_unpowered hp .intEnable _

theorem irqStep_clear_unpowered (h : s.irq = .running st .clear) :
    irqStep s = .fault (.unpowered (s.site (some 0xFE8))) := by
  rw [irqStep, h]
  exact thenWrite_unpowered hp .intClear _ _

theorem irqStep_wolClear_unpowered (h : s.irq = .running st .wolClear) :
    irqStep s = .fault (.unpowered (s.site (some 0x208))) := by
  rw [irqStep, h]
  exact thenWrite_unpowered hp .rxFilterWoLClear _ _

end

/-! ### Operations -/

theorem extractLsb'_low2_eq_zero_iff (w : Word) : w.extractLsb' 0 2 = 0#2 ↔ w.toNat % 4 = 0 := by
  rw [← BitVec.toNat_inj, BitVec.extractLsb'_toNat]
  simp

/-- The first register SET_HASH_FILTER reads: the half of the hash table that holds the bit (R406). -/
theorem accessedReg_hashFilterSeq (mac : List Byte) (enable : Bool) : accessedReg [.seq (hashFilterSeq mac enable)] =
    some (if hashIndex (crc32 mac) ≥ 32 then .hashFilterH else .hashFilterL) := by
  cases enable <;> rfl

theorem exec_setHashFilter_unpowered {s : State} (hp : s.powered = false) {mac : List Byte} {enable : Nat}
    (hmac : mac.length = 6) (hen : enable < 2) : exec (.setHashFilter mac enable) s =
      .fault (.unpowered (s.site (some (if hashIndex (crc32 mac) < 32 then 0x210 else 0x214)))) := by
  have hwf : (isMac mac && isFlag enable) = true := by simp [isMac, isFlag, hmac, hen]
  have hrun : exec (.setHashFilter mac enable) s = opRun [.seq (hashFilterSeq mac (enable == 1))] s := if_pos hwf
  rw [hrun, opRun_unpowered hp (accessedReg_hashFilterSeq mac _)]
  by_cases h : hashIndex (crc32 mac) < 32
  · rw [if_neg (Nat.not_le.2 h), if_pos h]; rfl
  · rw [if_pos (Nat.not_lt.1 h), if_neg h]; rfl

theorem exec_writeTxPacket_unpowered {s : State} (hp : s.powered = false) {buf len : Word} (hring : s.txRingInit = true)
    (hpos : 0 < len.toNat) (hlen : len.toNat ≤ Config.frameBufSize) (hbuf : buf.toNat % 4 = 0) :
    exec (.writeTxPacket buf len) s = .fault (.unpowered (s.site (some 0x128))) := by
  have h1 : ¬s.txRingInit = false := Bool.not_eq_false _ ▸ hring
  have h2 : ¬(len.toNat < 1 ∨ len.toNat > Config.frameBufSize) := by omega
  have h3 : ¬buf.extractLsb' 0 2 ≠ 0#2 := not_not_intro ((extractLsb'_low2_eq_zero_iff buf).2 hbuf)
  exact (if_neg h1).trans <| (if_neg h2).trans <| (if_neg h3).trans <| opAnswer_doRead_unpowered hp .txProduceIndex _

theorem exec_readRxPacket_unpowered {s : State} (hp : s.powered = false) {buf len : Word} (hring : s.rxRingInit = true)
    (hlen : len.toNat ≤ Config.frameBufSize) (hbuf : buf.toNat % 4 = 0) :
    exec (.readRxPacket buf len) s = .fault (.unpowered (s.site (some 0x118))) := by
  have h1 : ¬s.rxRingInit = false := Bool.not_eq_false _ ▸ hring
  have h2 : ¬len.toNat > Config.frameBufSize := Nat.not_lt.2 hlen
  have h3 : ¬(buf ≠ 0 ∧ buf.extractLsb' 0 2 ≠ 0#2) := fun h => h.2 ((extractLsb'_low2_eq_zero_iff buf).2 hbuf)
  exact (if_neg h1).trans <| (if_neg h2).trans <| (if_neg h3).trans <| opAnswer_doRead_unpowered hp .rxConsumeIndex _

theorem exec_writePhy_unpowered {s : State} (hp : s.powered = false) {reg value : Nat} (hreg : reg < 32)
    (hvalue : value < 65536) : exec (.writePhy reg value) s = .fault (.unpowered (s.site (some 0x028))) := by
  have hwf : (isU5 reg && isU16 value) = true := by simp [isU5, isU16, hreg, hvalue]
  exact (if_pos hwf).trans (opRun_unpowered (r := .madr) hp rfl)

theorem exec_setMode_unpowered {s : State} (hp : s.powered = false) {mode : Word} (h : mode.toNat ≤ 4) :
    exec (.setMode mode) s = .fault (.unpowered (s.site (some 0x028))) := by
  obtain ⟨bmcr, hb⟩ := Option.ne_none_iff_exists'.1 fun hn => bmcrValue_eq_none_iff.1 hn h
  have hrun : exec (.setMode mode) s = opRun (setModeFrames bmcr) s := by
    simp only [exec, execSetMode, hb]
  rw [hrun]
  exact opRun_unpowered (r := .madr) hp rfl

/-! ### The obligation -/

/-- Settles O8: the power check of each transaction, then the access rights of a powered block. -/
theorem powerAndAccessRights : Obligations.PowerAndAccessRights := by
  refine fun s v => ⟨fun hp r => ⟨exec_rd_unpowered hp r, exec_wr_unpowered hp r v, opRun_unpowered hp⟩,
    fun hp dir off args ha hargs => runLine_bus_unpowered hp ha hargs,
    fun hp st x => ⟨irqStep_start_unpowered hp, irqStep_readEnable_unpowered hp, irqStep_clear_unpowered hp,
      irqStep_wolClear_unpowered hp⟩,
    fun hp buf len kind mode reg value enable mac hreg hvalue hen hmac => ?_, fun hp => ?_⟩
  · refine ⟨fun hirq => ⟨?_, ?_⟩, exec_writeTxPacket_unpowered hp, exec_readRxPacket_unpowered hp,
      opAnswer_doRead_unpowered hp .rxConsumeIndex _, opAnswer_doRead_unpowered hp .txProduceIndex _,
      opAnswer_doRead_unpowered hp .rxConsumeIndex _, opAnswer_doRead_unpowered hp .txConsumeIndex _,
      exec_writePhy_unpowered hp hreg hvalue, ?_, opRun_unpowered (r := .madr) hp rfl,
      opRun_unpowered (r := .madr) hp rfl, exec_setMode_unpowered hp, opRun_unpowered (r := .madr) hp rfl,
      exec_setHashFilter_unpowered hp hmac hen⟩
    · exact (if_neg (not_not_intro hirq)).trans (opRun_unpowered (r := .command) hp rfl)
    · exact (if_neg (not_not_intro hirq)).trans (opRun_unpowered (r := .command) hp rfl)
    · exact (if_pos (decide_eq_true hreg)).trans (opRun_unpowered (r := .madr) hp rfl)
  · have ro (r : Reg) (hr : regReadOnly r = true) := exec_wr_readOnly v hp hr
    have wo (r : Reg) (hr : regWriteOnly r = true) := exec_rd_writeOnly hp hr
    exact ⟨ro .mrdd rfl, ro .mind rfl, ro .status rfl, ro .rxProduceIndex rfl, ro .txConsumeIndex rfl,
      ro .rxFilterWoLStatus rfl, ro .intStatus rfl, wo .mwtd rfl, wo .rxFilterWoLClear rfl, wo .intClear rfl,
      wo .intSet rfl⟩

end Sys2Proof.Machine
end

section
/-!
PROOFS. The host's memory accesses (spec/40_bus.md R240, R241) and the ownership of ring slots (spec/20_memory.md R120).
-/

namespace Sys2Proof.Machine

/-! ### Ownership of ring slots -/

section
variable (s : State) (a : Nat)

theorem meetsSlot_iff (d st n : Nat) : meetsSlot s a d st n = true ↔
    (a < d + 8 ∧ d < a + 4) ∨ (a < st + n ∧ st < a + 4) ∨
      (a < (Memory.readWord s.mem d).toNat + Config.frameBufSize ∧ (Memory.readWord s.mem d).toNat < a + 4) := by
  simp only [meetsSlot, meets, Bool.or_eq_true, Bool.and_eq_true, decide_eq_true_eq, or_assoc]

/-- An RX slot is the hardware's when its distance from C is not below P's, on the integers (R120). -/
theorem rxSlotHw_iff (i : Nat) : rxSlotHw s i = true ↔
    ((idx s.regs.rxProduceIndex : Int) - idx s.regs.rxConsumeIndex) % (s.nr : Int) ≤
      ((i : Int) - idx s.regs.rxConsumeIndex) % (s.nr : Int) := by
  rw [← subMod_int _ _ s.nr (Nat.succ_pos _), ← subMod_int _ _ s.nr (Nat.succ_pos _), Int.ofNat_le]
  simp only [rxSlotHw, Bool.not_eq_true', decide_eq_false_iff_not, Nat.not_lt]

/-- A TX slot is the hardware's when its distance from C is below P's, on the integers (R120). -/
theorem txSlotHw_iff (i : Nat) : txSlotHw s i = true ↔
    ((i : Int) - idx s.regs.txConsumeIndex) % (s.nt : Int) <
      ((idx s.regs.txProduceIndex : Int) - idx s.regs.txConsumeIndex) % (s.nt : Int) := by
  rw [← subMod_int _ _ s.nt (Nat.succ_pos _), ← subMod_int _ _ s.nt (Nat.succ_pos _), Int.ofNat_lt]
  simp only [txSlotHw, decide_eq_true_eq]

theorem rxOwned_iff : rxOwned s a = true ↔ s.regs.command.getLsbD 0 = true ∧ ∃ i < s.nr, rxSlotHw s i = true ∧
    meetsSlot s a (s.regs.rxDescriptor.toNat + 8 * i) (s.regs.rxStatus.toNat + 8 * i) 8 = true := by
  simp only [rxOwned, State.rxOn, Bool.and_eq_true, List.any_eq_true, List.mem_range]

theorem txOwned_iff : txOwned s a = true ↔ s.regs.command.getLsbD 1 = true ∧ ∃ i < s.nt, txSlotHw s i = true ∧
    meetsSlot s a (s.regs.txDescriptor.toNat + 8 * i) (s.regs.txStatus.toNat + 4 * i) 4 = true := by
  simp only [txOwned, State.txOn, Bool.and_eq_true, List.any_eq_true, List.mem_range]

theorem hwOwned_iff : hwOwned s a = true ↔ rxOwned s a = true ∨ txOwned s a = true := by
  rw [hwOwned, Bool.or_eq_true]

/-- With both datapaths off no slot is the hardware's (log entry 9). -/
theorem hwOwned_of_disabled (hrx : s.regs.command.getLsbD 0 = false) (htx : s.regs.command.getLsbD 1 = false) :
    hwOwned s a = false := by
  simp only [hwOwned, rxOwned, txOwned, State.rxOn, State.txOn, hrx, htx, Bool.false_and, Bool.or_self]

end

/-! ### The checks of an access -/

theorem memCheck_of_misaligned {a : Nat} (h : a % 4 ≠ 0) : memCheck a = some .misaligned := if_pos h

theorem memCheck_of_window {a : Nat} (ha : a % 4 = 0) (hlo : Config.emacBase ≤ a + 3) (hhi : a ≤ Config.emacBase + 0xFFF) :
    memCheck a = some .badAddress :=
  (if_neg (not_not_intro ha)).trans (if_pos (.inl ⟨by omega, hlo⟩))

theorem memCheck_of_memory {a : Nat} (ha : a % 4 = 0) (hout : a + 3 < Config.emacBase ∨ Config.emacBase + 0xFFF < a)
    (hlt : a < 2 ^ 32) : memCheck a = none :=
  (if_neg (not_not_intro ha)).trans (if_neg (by omega))

section
variable {addr : Word} {s : State}

theorem exec_memRead32_fault {f : FaultSite → Fault} (h : memCheck addr.toNat = some f) :
    exec (.memRead32 addr) s = .fault (f (s.site (some addr.toNat))) := by
  simp only [exec, execMemRead32, hostRead, h, answer]

theorem exec_memWrite32_fault {f : FaultSite → Fault} (value : Word) (h : memCheck addr.toNat = some f) :
    exec (.memWrite32 addr value) s = .fault (f (s.site (some addr.toNat))) := by
  simp only [exec, execMemWrite32, hostWrite, h, answerKeep]

theorem exec_memRead32 (h : memCheck addr.toNat = none) : exec (.memRead32 addr) s =
    .next ((s.log (.mem s.agent addr.toNat 4 .read (hostValue s addr.toNat))).finish (hostValue s addr.toNat)) := by
  simp only [exec, execMemRead32, hostRead, h, answer]

theorem exec_memWrite32_owned (value : Word) (h : memCheck addr.toNat = none) (ho : hwOwned s addr.toNat = true) :
    exec (.memWrite32 addr value) s = .fault (.ownershipViolation (s.site (some addr.toNat))) := by
  simp only [exec, execMemWrite32, hostWrite, h, ho, answerKeep, if_true]

theorem exec_memWrite32 (value : Word) (h : memCheck addr.toNat = none) (ho : hwOwned s addr.toNat = false) :
    exec (.memWrite32 addr value) s = .next (({ s with mem := Memory.writeWord addr.toNat value s.mem }.log
      (.mem s.agent addr.toNat 4 .write value)).next) := by
  simp only [exec, execMemWrite32, hostWrite, h, ho, answerKeep, Bool.false_eq_true, if_false]

end

/-! ### Little-endian words (R101) -/

theorem toNat_readWord (m : Memory) (a : Nat) : (Memory.readWord m a).toNat =
    (Memory.read m a).toNat + (Memory.read m (a + 1)).toNat * 2 ^ 8 + (Memory.read m (a + 2)).toNat * 2 ^ 16 +
      (Memory.read m (a + 3)).toNat * 2 ^ 24 := by
  have h0 := (Memory.read m a).isLt
  have h1 := (Memory.read m (a + 1)).isLt
  have h2 := (Memory.read m (a + 2)).isLt
  simp only [Memory.readWord, BitVec.toNat_append]
  rw [← Nat.shiftLeft_add_eq_or_of_lt h0, ← Nat.shiftLeft_add_eq_or_of_lt h1, ← Nat.shiftLeft_add_eq_or_of_lt h2]
  simp only [Nat.shiftLeft_eq]
  omega

theorem toNat_byteOf (v : Word) (k : Nat) : (byteOf v k).toNat = v.toNat / 2 ^ (8 * k) % 256 := by
  rw [byteOf, BitVec.extractLsb'_toNat, Nat.shiftRight_eq_div_pow]

/-- Byte `k` of a stored word is byte `k` of its value. -/
theorem toNat_read_writeWord (m : Memory) (a : Nat) (v : Word) {k : Nat} (hk : k < 4) :
    (Memory.read (Memory.writeWord a v m) (a + k)).toNat = v.toNat / 2 ^ (8 * k) % 256 := by
  rw [Memory.read_writeWord, if_pos ⟨Nat.le_add_right a k, Nat.add_lt_add_left hk a⟩, Nat.add_sub_cancel_left, toNat_byteOf]

/-! ### The obligation -/

/-- Settles O19: ownership from the integer form of the slots' distances, the accesses from `memCheck`. -/
theorem hostMemoryAccess : Obligations.HostMemoryAccess := by
  refine ⟨fun s a NR NT PR CR PT CT covers hNR hNT hPR hCR hPT hCT hcov => ⟨hwOwned_of_disabled s a, ?_⟩,
    fun addr value s a ha => ?_⟩
  · obtain rfl : NR = s.nr := by rw [hNR, State.nr, idx_eq_mod]
    obtain rfl : NT = s.nt := by rw [hNT, State.nt, idx_eq_mod]
    rw [idx_int] at hPR hCR hPT hCT
    subst hPR hCR hPT hCT
    simp only [hcov, ← meetsSlot_iff, ← rxSlotHw_iff, ← txSlotHw_iff]
    rw [hwOwned_iff, rxOwned_iff, txOwned_iff]
  · subst ha
    rw [ne_eq, extractLsb'_low2_eq_zero_iff]
    refine ⟨fun hal => ?_, fun hal hlo hhi => ?_, fun hal hout => ?_⟩
    · have hc := memCheck_of_misaligned hal
      exact ⟨exec_memRead32_fault hc, exec_memWrite32_fault value hc⟩
    · have hc := memCheck_of_window hal hlo hhi
      exact ⟨exec_memRead32_fault hc, exec_memWrite32_fault value hc⟩
    · have hc := memCheck_of_memory hal hout addr.isLt
      refine ⟨fun ho => ⟨⟨_, exec_memRead32 hc⟩, exec_memWrite32_owned value hc ho⟩,
        fun ho => ⟨⟨_, exec_memRead32 hc, ?_⟩, _, exec_memWrite32 value hc ho,
          fun k hk => toNat_read_writeWord s.mem _ value hk, fun b hb => Memory.read_writeWord_other s.mem value hb⟩⟩
      have hv : hostValue s addr.toNat = Memory.readWord s.mem addr.toNat := if_neg (Bool.eq_false_iff.1 ho)
      rw [hv]
      exact toNat_readWord s.mem _

end Sys2Proof.Machine
end

section
/-!
PROOFS. Runs of one operation alone, as triples: from where an operation stands and what holds of the block, to where it stands some
micro-steps later and what holds then.  One rule for a micro-step, for a store, for a copied word and for a register write; rules
compose, and repeat over an index.
-/

namespace Sys2Proof.Machine

/-- The checks of a write look at the registers and the MII sequencer only. -/
theorem writeCheck_congr (r : Reg) (v : Word) {s t : State} (hregs : t.regs = s.regs) (hmii : t.mii = s.mii) :
    writeCheck r v t = writeCheck r v s := by
  have ht : t = { t with regs := s.regs, mii := s.mii } := by rw [← hregs, ← hmii]
  rw [ht]
  cases r <;> rfl

/-! ### What a run can reach -/

/-- `t` is `s` with a memory of which `M` holds, with another history and at another place in the schedule. -/
def Reached (s : State) (M : Memory → Prop) (t : State) : Prop :=
  ∃ (m : Memory) (h : List Event) (tn : Turn) (n : Nat), M m ∧ t = { s with mem := m, hist := h, turn := tn, tick := n }

section
variable {s t : State} {M : Memory → Prop}

theorem Reached.self (h : M s.mem) : Reached s M s := ⟨_, _, _, _, h, rfl⟩

theorem Reached.log (h : Reached s M t) (e : Event) : Reached s M (t.log e) := by
  obtain ⟨m, _, _, _, hm, rfl⟩ := h
  exact ⟨m, _, _, _, hm, rfl⟩

theorem Reached.readLogged (r : Reg) (v : Word) : Reached s (· = s.mem) (readLogged r v s) :=
  (Reached.self (M := (· = s.mem)) rfl).log _

theorem Reached.passTurn (h : Reached s M t) : Reached s M (passTurn t) := by
  obtain ⟨m, _, _, _, hm, rfl⟩ := h
  exact ⟨m, _, _, _, hm, rfl⟩

theorem Reached.mono {M' : Memory → Prop} (h : Reached s M t) (hM : ∀ m, M m → M' m) : Reached s M' t := by
  obtain ⟨m, _, _, _, hm, rfl⟩ := h
  exact ⟨m, _, _, _, hM m hm, rfl⟩

theorem Reached.setMem {M' : Memory → Prop} {m : Memory} (h : Reached s M t) (hm : M' m) :
    Reached s M' { t with mem := m } := by
  obtain ⟨_, _, _, _, _, rfl⟩ := h
  exact ⟨m, _, _, _, hm, rfl⟩

theorem Reached.and {N : Memory → Prop} (h : Reached s M t) (hN : N t.mem) : Reached s (fun m => M m ∧ N m) t := by
  obtain ⟨m, _, _, _, hm, rfl⟩ := h
  exact ⟨m, _, _, _, ⟨hm, hN⟩, rfl⟩

theorem Reached.setRegs (h : Reached s M t) (r : Regs) : Reached { s with regs := r } M { t with regs := r } := by
  obtain ⟨m, _, _, _, hm, rfl⟩ := h
  exact ⟨m, _, _, _, hm, rfl⟩

theorem Reached.mem (h : Reached s M t) : M t.mem := by
  obtain ⟨_, _, _, _, hm, rfl⟩ := h
  exact hm

theorem Reached.regs (h : Reached s M t) : t.regs = s.regs := by
  obtain ⟨_, _, _, _, _, rfl⟩ := h
  rfl

theorem Reached.powered (h : Reached s M t) : t.powered = s.powered := by
  obtain ⟨_, _, _, _, _, rfl⟩ := h
  rfl

theorem Reached.irq (h : Reached s M t) : t.irq = s.irq := by
  obtain ⟨_, _, _, _, _, rfl⟩ := h
  rfl

theorem Reached.mii (h : Reached s M t) : t.mii = s.mii := by
  obtain ⟨_, _, _, _, _, rfl⟩ := h
  rfl

/-- Ownership looks at the registers and the memory only. -/
theorem Reached.hwOwned (h : Reached s M t) (a : Nat) : hwOwned t a = hwOwned { s with mem := t.mem } a := by
  obtain ⟨_, _, _, _, _, rfl⟩ := h
  rfl

end

/-! ### Triples -/

/-- From every state of `P`, the operation standing at `c`, `n` micro-steps alone reach a state of `Q`, the operation standing at `c'`. -/
def Runs (n : Nat) (P : State → Prop) (c c' : Cont) (Q : State → Prop) : Prop :=
  ∀ s, P s → ∃ t, Q t ∧ ∀ k, aloneRun (n + k) (settle (s, c)) = aloneRun k (settle (t, c'))

theorem Runs.refl (P : State → Prop) (c : Cont) : Runs 0 P c c P := fun s h => ⟨s, h, fun k => by rw [Nat.zero_add]⟩

theorem Runs.trans {n m : Nat} {P Q R : State → Prop} {c c' c'' : Cont} (h : Runs n P c c' Q) (h' : Runs m Q c' c'' R) :
    Runs (n + m) P c c'' R := by
  intro s hs
  obtain ⟨t, ht, hrun⟩ := h s hs
  obtain ⟨u, hu, hrun'⟩ := h' t ht
  exact ⟨u, hu, fun k => by rw [Nat.add_assoc, hrun, hrun']⟩

theorem Runs.pre {n : Nat} {P P' Q : State → Prop} {c c' : Cont} (h : Runs n P c c' Q) (hP : ∀ s, P' s → P s) :
    Runs n P' c c' Q := fun s hs => h s (hP s hs)

/-- A block of micro-steps for every index below `n`, one after the other. -/
theorem Runs.loop {b n : Nat} {P : Nat → State → Prop} {c : Nat → Cont}
    (h : ∀ j, j < n → Runs b (P j) (c j) (c (j + 1)) (P (j + 1))) : Runs (b * n) (P 0) (c 0) (c n) (P n) := by
  induction n with
  | zero => exact Runs.refl _ _
  | succ n ih => exact (ih fun j hj => h j (Nat.lt_succ_of_lt hj)).trans (h n (Nat.lt_succ_self n))

/-- A whole command, from its first step and the run of its other micro-steps. -/
theorem Runs.endsIn {i : Instr} {n : Nat} {P : State → Prop} {s u s' : State} {c : Cont} {v : Word} {M : Memory → Prop}
    (h : Runs n P c (.ret v) (Reached s' M)) (hi : exec i s = .next (settle (u, c))) (hu : P u) :
    ∃ m, M m ∧ endsIn (aloneCommand i n s) { s' with mem := m } (State.finish v) (fun _ => True) := by
  obtain ⟨_, ⟨m, hist, tn, tick, hm, rfl⟩, hrun⟩ := h u hu
  refine ⟨m, hm, hist, tn, tick, ?_, trivial⟩
  rw [aloneCommand, hi]
  exact hrun 0

/-! ### The rules -/

theorem inProgram_of_idle {s : State} (h : s.irq = .idle) : s.inProgram := by
  rw [State.inProgram, h]
  trivial

/-- The operation in progress takes one micro-step. -/
theorem aloneRun_succ {n : Nat} {fs : List OpFrame} {c : Cont} {s t : State} (hp : s.inProgram)
    (h : microStep fs (passTurn s) = .ok (t, c)) : aloneRun (n + 1) (putOp fs s) = aloneRun n (settle (t, c)) := by
  cases c with
  | run gs => exact aloneRun_step n hp h
  | ret v => exact aloneRun_end n hp h

section
variable {s : State} {M M' : Memory → Prop} {fs : List OpFrame} {c : Cont} {Q : State → Prop}

theorem runs_step (hp : s.inProgram) (h : ∀ u, Reached s M u → ∃ t, microStep fs u = .ok (t, c) ∧ Q t) :
    Runs 1 (Reached s M) (.run fs) c Q := by
  intro u hu
  obtain ⟨t, ht, hQ⟩ := h _ hu.passTurn
  exact ⟨t, hQ, fun k => by rw [Nat.add_comm]; exact aloneRun_succ (inProgram_of_irq hp hu.irq) ht⟩

/-- A read of a register that does not draw. -/
theorem runs_read {r : Reg} {k : Word → State → Except Fault (State × Cont)} (hp : s.inProgram) (hon : s.powered = true)
    (hr : regWriteOnly r = false) (hm : r ≠ .mind) (hs : r ≠ .status) (h : ∀ u, microStep fs u = doRead r u k)
    (hk : ∀ u, k (readReg r s) u = .ok (u, c)) : Runs 1 (Reached s M) (.run fs) c (Reached s M) := by
  refine runs_step hp fun u hu => ⟨_, ?_, hu.log (.bus u.agent r.offset .read (readReg r s))⟩
  rw [h u, doRead, busRead_eq (hu.powered.trans hon) hr, readReg_congr hm hs hu.regs]
  exact hk _

/-- A write of a register that passes its checks and has no effect but the registers'. -/
theorem runs_write {r : Reg} {v : Word} {regs : Regs} {ms : List Micro} (hp : s.inProgram) (hon : s.powered = true)
    (hr : regReadOnly r = false) (hc : writeCheck r v s = none) (h1 : r ≠ .mwtd) (h2 : r ≠ .mcmd) (h3 : r ≠ .command)
    (hw : writeRegs r v s.regs = regs) (hk : ∀ u, Reached { s with regs := regs } M u → ∃ t, seqRest ms fs u = (t, c) ∧ Q t) :
    Runs 1 (Reached s M) (.run (.seq (.write r v :: ms) :: fs)) c Q := by
  refine runs_step hp fun u hu => ?_
  have hbus := busWrite_eq (v := v) (hu.powered.trans hon) hr ((writeCheck_congr r v hu.regs hu.mii).trans hc)
  rw [writeEffect_plain v u h1 h2 h3, hu.regs, hw] at hbus
  obtain ⟨t, ht, hQ⟩ := hk _ ((hu.setRegs _).log (.bus u.agent r.offset .write v))
  refine ⟨t, ?_, hQ⟩
  simp only [microStep, seqStep, doWrite, hbus, ht]

/-- Such a write with more to do after it. -/
theorem runs_writeThen {r : Reg} {v : Word} {regs : Regs} {x : Micro} {ms : List Micro} {n : Nat} (hp : s.inProgram)
    (hon : s.powered = true) (hr : regReadOnly r = false) (hc : writeCheck r v s = none) (h1 : r ≠ .mwtd) (h2 : r ≠ .mcmd)
    (h3 : r ≠ .command) (hw : writeRegs r v s.regs = regs)
    (hrest : Runs n (Reached { s with regs := regs } M) (.run (.seq (x :: ms) :: fs)) c Q) :
    Runs (n + 1) (Reached s M) (.run (.seq (.write r v :: x :: ms) :: fs)) c Q := by
  have write := runs_write (M := M) (ms := x :: ms) (fs := fs) hp hon hr hc h1 h2 h3 hw fun u hu => ⟨u, rfl, hu⟩
  rw [Nat.add_comm]
  exact write.trans hrest

end

/-! ### Memory accesses -/

theorem State.accessible.memCheck {s : State} {a : Nat} (h : s.accessible a) : memCheck a = none := by
  obtain ⟨hal, htop, hwin, -⟩ := h
  exact memCheck_of_memory hal (by omega) (by omega)

theorem hostWrite_eq {a : Nat} {s : State} (v : Word) (hc : memCheck a = none) (ho : hwOwned s a = false) :
    hostWrite a v s = .ok ({ s with mem := Memory.writeWord a v s.mem }.log (.mem s.agent a 4 .write v)) := by
  simp only [hostWrite, hc, ho, Bool.false_eq_true, if_false]

theorem hostRead_eq {a : Nat} {s : State} (hc : memCheck a = none) (ho : hwOwned s a = false) :
    hostRead a s = .ok (Memory.readWord s.mem a, s.log (.mem s.agent a 4 .read (Memory.readWord s.mem a))) := by
  simp only [hostRead, hostValue, hc, ho, Bool.false_eq_true, if_false]

/-- A store that does not meet a slot leaves the slot's PACKET word, so the slot's extent. -/
theorem meetsSlot_writeWord {s : State} {a d st n : Nat} (v : Word) (b : Nat) (h : ¬meetsSlot s a d st n = true) :
    meetsSlot { s with mem := Memory.writeWord a v s.mem } b d st n = meetsSlot s b d st n := by
  rw [meetsSlot_iff] at h
  have hd : Memory.readWord (Memory.writeWord a v s.mem) d = Memory.readWord s.mem d :=
    Memory.readWord_writeWord_other s.mem v (by omega)
  simp only [meetsSlot, hd]

/-- A store that meets no hardware-owned slot leaves the ownership of every address. -/
theorem hwOwned_writeWord {s : State} {a : Nat} (v : Word) (b : Nat) (h : hwOwned s a = false) :
    hwOwned { s with mem := Memory.writeWord a v s.mem } b = hwOwned s b := by
  have h' : ¬hwOwned s a = true := Bool.eq_false_iff.1 h
  rw [hwOwned_iff, rxOwned_iff, txOwned_iff, not_or] at h'
  obtain ⟨hrx, htx⟩ := h'
  rw [Bool.eq_iff_iff, hwOwned_iff, hwOwned_iff, rxOwned_iff, rxOwned_iff, txOwned_iff, txOwned_iff]
  refine or_congr (and_congr_right fun on => exists_congr fun i => and_congr_right fun hi => and_congr_right fun hhw => ?_)
    (and_congr_right fun on => exists_congr fun i => and_congr_right fun hi => and_congr_right fun hhw => ?_)
  · exact Bool.eq_iff_iff.1 (meetsSlot_writeWord v b fun hm => hrx ⟨on, i, hi, hhw, hm⟩)
  · exact Bool.eq_iff_iff.1 (meetsSlot_writeWord v b fun hm => htx ⟨on, i, hi, hhw, hm⟩)

/-- With the memory `m` the hardware owns what it owns in `s`. -/
def KeepsOwnership (s : State) (m : Memory) : Prop := ∀ a, hwOwned { s with mem := m } a = hwOwned s a

theorem KeepsOwnership.self (s : State) : KeepsOwnership s s.mem := fun _ => rfl

theorem KeepsOwnership.writeWord {s : State} {m : Memory} {a : Nat} (h : KeepsOwnership s m) (ha : s.accessible a) (v : Word) :
    KeepsOwnership s (Memory.writeWord a v m) := fun b =>
  (hwOwned_writeWord (s := { s with mem := m }) v b ((h a).trans ha.2.2.2)).trans (h b)

section
variable {s u : State} {M : Memory → Prop} {a : Nat} (hu : Reached s M u) (hM : ∀ m, M m → KeepsOwnership s m)
  (ha : s.accessible a)
include hu hM ha

theorem Reached.hwOwned_accessible : Machine.hwOwned u a = false :=
  (hu.hwOwned a).trans ((hM _ hu.mem a).trans ha.2.2.2)

theorem Reached.hostRead : hostRead a u =
    .ok (Memory.readWord u.mem a, u.log (.mem u.agent a 4 .read (Memory.readWord u.mem a))) :=
  hostRead_eq ha.memCheck (hu.hwOwned_accessible hM ha)

theorem Reached.hostWrite (v : Word) : hostWrite a v u =
    .ok ({ u with mem := Memory.writeWord a v u.mem }.log (.mem u.agent a 4 .write v)) :=
  hostWrite_eq v ha.memCheck (hu.hwOwned_accessible hM ha)

end

section
variable {s : State} {M M' : Memory → Prop} {fs : List OpFrame} {c : Cont}

/-- A store. -/
theorem runs_store {a : Nat} {k : State → State × Cont} (hp : s.inProgram) (hM : ∀ m, M m → KeepsOwnership s m)
    (ha : s.accessible a) (hk : ∀ t, k t = (t, c))
    (h : ∀ u, ∃ v, microStep fs u = doMemWrite a v u k ∧ ∀ m, M m → M' (Memory.writeWord a v m)) :
    Runs 1 (Reached s M) (.run fs) c (Reached s M') := by
  refine runs_step hp fun u hu => ?_
  obtain ⟨v, hv, hM'⟩ := h u
  refine ⟨_, ?_, (hu.setMem (hM' _ hu.mem)).log (.mem u.agent a 4 .write v)⟩
  rw [hv, doMemWrite, hu.hostWrite hM ha v]
  exact congrArg Except.ok (hk _)

/-- A load of a word whose value is known. -/
theorem runs_load {a : Nat} {w : Word} {g : Word → Cont} (hp : s.inProgram) (hM : ∀ m, M m → KeepsOwnership s m)
    (ha : s.accessible a) (hw : ∀ m, M m → Memory.readWord m a = w)
    (h : ∀ u, microStep fs u = doMemRead a u fun w t => (t, g w)) :
    Runs 1 (Reached s M) (.run fs) (g w) (Reached s M) := by
  refine runs_step hp fun u hu => ⟨_, ?_, hu.log (.mem u.agent a 4 .read w)⟩
  rw [h u, doMemRead, hu.hostRead hM ha, hw _ hu.mem]

/-- A word loaded and then stored.  What is stored may depend on the word and on the step's draw. -/
theorem runs_copyWord {src dst : Nat} {gs : Word → List OpFrame} {k : State → State × Cont} (hp : s.inProgram)
    (hM : ∀ m, M m → KeepsOwnership s m) (hsrc : s.accessible src) (hdst : s.accessible dst) (hk : ∀ t, k t = (t, c))
    (hload : ∀ u, microStep fs u = doMemRead src u fun w t => (t, .run (gs w)))
    (hstore : ∀ w u, ∃ v, microStep (gs w) u = doMemWrite dst v u k ∧
      ∀ m, M m → Memory.readWord m src = w → M' (Memory.writeWord dst v m)) :
    Runs 2 (Reached s M) (.run fs) c (Reached s M') := by
  intro u hu
  obtain ⟨w, hw⟩ : ∃ w, Memory.readWord u.mem src = w := ⟨_, rfl⟩
  have load := runs_load (M := fun m => M m ∧ Memory.readWord m src = w) hp (fun m h => hM m h.1) hsrc (fun m h => h.2) hload
  have store := runs_store (M := fun m => M m ∧ Memory.readWord m src = w) (M' := M') hp (fun m h => hM m h.1) hdst hk
    fun t => (hstore w t).imp fun v hv => ⟨hv.1, fun m h => hv.2 m h.1 h.2⟩
  exact load.trans store u (hu.and hw)

end

end Sys2Proof.Machine
end

section
/-!
PROOFS. The index advances and the index checks (spec/41_ring.md R304 to R308).
-/

namespace Sys2Proof.Machine

/-! ### Commands that begin with a register read -/

theorem doRead_eq {r : Reg} {s : State} {k : Word → State → Except Fault (State × Cont)} (hp : s.powered = true)
    (hr : regWriteOnly r = false) : doRead r s k = k (readReg r s) (readLogged r (readReg r s) s) := by
  simp only [doRead, busRead_eq hp hr]

/-- A powered block faults a write that fails one of the register's checks. -/
theorem busWrite_eq_error {r : Reg} {v : Word} {s : State} {f : FaultSite → Fault} (hp : s.powered = true)
    (hr : regReadOnly r = false) (hc : writeCheck r v s = some f) :
    busWrite r v s = .error (f (s.site (some r.offset.toNat))) := by
  simp only [busWrite, hp, hr, hc, Bool.true_eq_false, Bool.false_eq_true, if_false]

/-- The index after `i` in a ring of `n` slots, as the advances write it. -/
def indexAfter (i n : Nat) : Word := word ((i + 1) % n)

section
variable {s : State} (hp : s.powered = true)
include hp

theorem exec_advanceConsume : exec .advanceConsume s = .next (putOp [.seq [.write .rxConsumeIndex
    (indexAfter (idx s.regs.rxConsumeIndex) Config.nRx)]] (readLogged .rxConsumeIndex s.regs.rxConsumeIndex s)) :=
  congrArg opAnswer (doRead_eq (r := .rxConsumeIndex) hp rfl)

theorem exec_advanceProduce : exec .advanceProduce s = .next (putOp [.seq [.write .txProduceIndex
    (indexAfter (idx s.regs.txProduceIndex) Config.nTx)]] (readLogged .txProduceIndex s.regs.txProduceIndex s)) :=
  congrArg opAnswer (doRead_eq (r := .txProduceIndex) hp rfl)

theorem exec_checkReceiveIndex : exec .checkReceiveIndex s =
    .next (putOp [.chkRx (idx s.regs.rxConsumeIndex)] (readLogged .rxConsumeIndex s.regs.rxConsumeIndex s)) :=
  congrArg opAnswer (doRead_eq (r := .rxConsumeIndex) hp rfl)

theorem exec_checkTransmitIndex : exec .checkTransmitIndex s =
    .next (putOp [.chkTx (idx s.regs.txConsumeIndex)] (readLogged .txConsumeIndex s.regs.txConsumeIndex s)) :=
  congrArg opAnswer (doRead_eq (r := .txConsumeIndex) hp rfl)

end

/-! ### Distances in a ring -/

theorem nRx_bounds : 2 ≤ Config.nRx ∧ Config.nRx ≤ 65536 := by
  have := Config.nRxFree.isLt
  unfold Config.nRx
  omega

theorem nTx_bounds : 2 ≤ Config.nTx ∧ Config.nTx ≤ 65536 := by
  have := Config.nTxFree.isLt
  unfold Config.nTx
  omega

theorem subMod_eq_zero_iff {a n : Nat} (b : Nat) (ha : a < n) : subMod a b n = 0 ↔ a = b % n := by
  have hb : b % n < n := Nat.mod_lt _ (Nat.zero_lt_of_lt ha)
  unfold subMod
  rcases Nat.lt_or_ge a (b % n) with h | h
  · rw [Nat.mod_eq_of_lt (by omega)]; omega
  · rw [show a + (n - b % n) = a - b % n + n by omega, Nat.add_mod_right, Nat.mod_eq_of_lt (by omega)]; omega

theorem subMod_succ {i n : Nat} (hn : 2 ≤ n) (hi : i < n) : subMod ((i + 1) % n) i n = 1 := by
  unfold subMod
  rw [Nat.mod_eq_of_lt hi, Nat.mod_add_mod, show i + 1 + (n - i) = 1 + n by omega, Nat.add_mod_right, Nat.mod_eq_of_lt hn]

section
variable {n : Nat} (hn : 2 ≤ n ∧ n ≤ 65536)
include hn

theorem toNat_word_of_index (i : Nat) : (word (i % n)).toNat = i % n := by
  have := Nat.mod_lt i (y := n) (by omega)
  rw [word, BitVec.toNat_ofNat, Nat.mod_eq_of_lt (by omega)]

theorem idx_word_of_index (i : Nat) : idx (word (i % n)) = i % n := by
  have := Nat.mod_lt i (y := n) (by omega)
  rw [idx_eq_mod, toNat_word_of_index hn, Nat.mod_eq_of_lt (by omega)]

theorem word_of_index_masked (i : Nat) : word (i % n) &&& 0x0000FFFF#32 = word (i % n) := by
  refine BitVec.eq_of_toNat_eq ?_
  rw [toNat_and_low16, idx_word_of_index hn, toNat_word_of_index hn]

end

/-! ### The write of an advance -/

/-- A moved index is as wide as its register. -/
theorem writeRegs_rxConsumeIndex (i : Nat) (r : Regs) : writeRegs .rxConsumeIndex (indexAfter i Config.nRx) r =
    { r with rxConsumeIndex := indexAfter i Config.nRx } :=
  congrArg (fun w => { r with rxConsumeIndex := w }) (word_of_index_masked nRx_bounds (i + 1))

theorem writeRegs_txProduceIndex (i : Nat) (r : Regs) : writeRegs .txProduceIndex (indexAfter i Config.nTx) r =
    { r with txProduceIndex := indexAfter i Config.nTx } :=
  congrArg (fun w => { r with txProduceIndex := w }) (word_of_index_masked nTx_bounds (i + 1))

section
variable {s : State} {c p : Nat}

/-- With the datapath off the moved consume index passes its checks. -/
theorem writeCheck_advanceConsume_off (hN : s.nr = Config.nRx) (hoff : s.rxOn = false) :
    writeCheck .rxConsumeIndex (indexAfter c Config.nRx) s = none := by
  refine writeCheck_rxConsumeIndex.2 ⟨?_, fun on => absurd on (Bool.eq_false_iff.1 hoff)⟩
  rw [hN, indexAfter, idx_word_of_index nRx_bounds]
  exact Nat.mod_lt _ (by have := nRx_bounds; omega)

theorem writeCheck_advanceProduce_off (hN : s.nt = Config.nTx) (hoff : s.txOn = false) :
    writeCheck .txProduceIndex (indexAfter p Config.nTx) s = none := by
  refine writeCheck_txProduceIndex.2 ⟨?_, fun on => absurd on (Bool.eq_false_iff.1 hoff)⟩
  rw [hN, indexAfter, idx_word_of_index nTx_bounds]
  exact Nat.mod_lt _ (by have := nTx_bounds; omega)

/-- With the datapath on it passes them exactly when a filled slot is left (R222). -/
theorem writeCheck_advanceConsume_on (hN : s.nr = Config.nRx) (hon : s.rxOn = true) (hc : c = idx s.regs.rxConsumeIndex)
    (hp : p = idx s.regs.rxProduceIndex) (hcN : c < Config.nRx) (hpN : p < Config.nRx) :
    writeCheck .rxConsumeIndex (indexAfter c Config.nRx) s = if c = p then some .ownershipViolation else none := by
  have hlt : (c + 1) % Config.nRx < Config.nRx := Nat.mod_lt _ (Nat.zero_lt_of_lt hcN)
  have hzero := subMod_eq_zero_iff c hpN
  rw [Nat.mod_eq_of_lt hcN] at hzero
  simp only [writeCheck, hN, hon, ← hc, ← hp, indexAfter, idx_word_of_index nRx_bounds, subMod_succ nRx_bounds.1 hcN, true_and]
  rw [if_neg (Nat.not_le.2 hlt)]
  exact if_congr (by omega) rfl rfl

/-- With the datapath on it passes them exactly when a slot is free besides the one that stays free (R223). -/
theorem writeCheck_advanceProduce_on (hN : s.nt = Config.nTx) (hon : s.txOn = true) (hc : c = idx s.regs.txConsumeIndex)
    (hp : p = idx s.regs.txProduceIndex) (hcN : c < Config.nTx) (hpN : p < Config.nTx) :
    writeCheck .txProduceIndex (indexAfter p Config.nTx) s =
      if (p + 1) % Config.nTx = c then some .ownershipViolation else none := by
  have hlt : (p + 1) % Config.nTx < Config.nTx := Nat.mod_lt _ (Nat.zero_lt_of_lt hpN)
  have hzero := subMod_eq_zero_iff (p + 1) hcN
  simp only [writeCheck, hN, hon, ← hc, ← hp, indexAfter, idx_word_of_index nTx_bounds, subMod_succ nTx_bounds.1 hpN, true_and]
  rw [if_neg (Nat.not_le.2 hlt)]
  exact if_congr (by omega) rfl rfl

end

section
variable {i : Instr} {s u : State} {r : Reg} {v : Word} (hi : exec i s = .next (putOp [.seq [.write r v]] u))
  (hu : Reached s (· = s.mem) u) (hp : s.inProgram) (hon : s.powered = true) (hr : regReadOnly r = false)
include hi hu hp hon hr

/-- A command whose second step is its last, a register write. -/
theorem endsIn_of_lastWrite {regs : Regs} (hc : writeCheck r v s = none) (h1 : r ≠ .mwtd) (h2 : r ≠ .mcmd) (h3 : r ≠ .command)
    (hw : writeRegs r v s.regs = regs) :
    endsIn (aloneCommand i 1 s) { s with regs := regs } (State.finish 0) (fun _ => True) := by
  have hrun := runs_write (M := (· = s.mem)) (ms := []) (fs := []) (c := .ret 0) hp hon hr hc h1 h2 h3 hw
    fun t ht => ⟨t, rfl, ht⟩
  obtain ⟨_, rfl, h⟩ := hrun.endsIn hi hu
  exact h

/-- A command whose second step is a register write that faults. -/
theorem fault_of_lastWrite {f : FaultSite → Fault} (hc : writeCheck r v s = some f) :
    ∃ site : FaultSite, aloneCommand i 1 s = .fault (f site) ∧ site.addr = some r.offset.toNat := by
  have hop : curOp (passTurn (putOp [.seq [.write r v]] u)) = [.seq [.write r v]] :=
    curOp_putOp (inProgram_of_irq hp hu.irq) _
  have hon' : (passTurn (putOp [.seq [.write r v]] u)).powered = true := (putOp_powered _ u).trans (hu.powered.trans hon)
  have hc' : writeCheck r v (passTurn (putOp [.seq [.write r v]] u)) = some f :=
    (writeCheck_congr r v ((putOp_regs _ u).trans hu.regs) ((putOp_mii _ u).trans hu.mii)).trans hc
  have hw := busWrite_eq_error hon' hr hc'
  refine ⟨(passTurn (putOp [.seq [.write r v]] u)).site (some r.offset.toNat), ?_, rfl⟩
  simp only [aloneCommand, hi, andThen, aloneRun, continueOp, hop, opRun, microStep, seqStep, doWrite, hw, opAnswer]

end

section
variable {s : State} (hp : s.inProgram) (hon : s.powered = true)
include hp hon

theorem advanceConsume_endsIn
    (hc : writeCheck .rxConsumeIndex (indexAfter (idx s.regs.rxConsumeIndex) Config.nRx) s = none) :
    endsIn (aloneCommand .advanceConsume 1 s)
      { s with regs := { s.regs with rxConsumeIndex := indexAfter (idx s.regs.rxConsumeIndex) Config.nRx } }
      (State.finish 0) (fun _ => True) :=
  endsIn_of_lastWrite (exec_advanceConsume hon) (Reached.readLogged _ _) hp hon rfl hc nofun nofun nofun
    (writeRegs_rxConsumeIndex _ _)

theorem advanceProduce_endsIn
    (hc : writeCheck .txProduceIndex (indexAfter (idx s.regs.txProduceIndex) Config.nTx) s = none) :
    endsIn (aloneCommand .advanceProduce 1 s)
      { s with regs := { s.regs with txProduceIndex := indexAfter (idx s.regs.txProduceIndex) Config.nTx } }
      (State.finish 0) (fun _ => True) :=
  endsIn_of_lastWrite (exec_advanceProduce hon) (Reached.readLogged _ _) hp hon rfl hc nofun nofun nofun
    (writeRegs_txProduceIndex _ _)

end

/-- Settles O29: the first step reads the index; the write of the index after it faults by its register's distance check only. -/
theorem indexAdvance : Obligations.IndexAdvance := by
  intro s hon
  simp only [← idx_eq_mod]
  refine ⟨exec_advanceConsume hon, exec_advanceProduce hon, ?_, ?_⟩
  · rintro c p hp hN rfl hpi hcN hpN
    have check := fun on => writeCheck_advanceConsume_on (s := s) hN on rfl hpi hcN hpN
    refine ⟨fun h => advanceConsume_endsIn hp hon ?_, fun on hcp => ?_⟩
    · by_cases hoff : s.rxOn = false
      · exact writeCheck_advanceConsume_off hN hoff
      · rw [check (Bool.not_eq_false _ ▸ hoff), if_neg (h.resolve_left hoff)]
    · exact fault_of_lastWrite (exec_advanceConsume hon) (Reached.readLogged _ _) hp hon rfl ((check on).trans (if_pos hcp))
  · rintro c p hp hN hci rfl hcN hpN
    have check := fun on => writeCheck_advanceProduce_on (s := s) hN on hci rfl hcN hpN
    refine ⟨fun h => advanceProduce_endsIn hp hon ?_, fun on hcp => ?_⟩
    · by_cases hoff : s.txOn = false
      · exact writeCheck_advanceProduce_off hN hoff
      · rw [check (Bool.not_eq_false _ ▸ hoff), if_neg (h.resolve_left hoff)]
    · exact fault_of_lastWrite (exec_advanceProduce hon) (Reached.readLogged _ _) hp hon rfl ((check on).trans (if_pos hcp))

/-! ### Advances in a row -/

/-- FG's end of a command. -/
theorem finish_fg {s : State} (h : s.irq = .idle) (v : Word) :
    s.finish v = { s with ret := v, pc := s.pc + 1, fgOp := [] } := by
  simp only [State.finish, putRet, State.next, goTo, curPc, h]

/-- FG repeats a command that changes nothing but the registers. -/
theorem aloneTimes_of_endsIn {i : Instr} {n : Nat} {regs : Nat → Regs}
    (h : ∀ k t, t.irq = .idle → t.powered = true → t.regs = regs k →
      endsIn (aloneCommand i n t) { t with regs := regs (k + 1) } (State.finish 0) (fun _ => True))
    {s : State} (hi : s.irq = .idle) (hon : s.powered = true) (hregs : s.regs = regs 0) (k : Nat) :
    ∃ t, aloneTimes i n k s = .next t ∧ t.regs = regs k ∧ t.pc = s.pc + k := by
  induction k generalizing s regs with
  | zero => exact ⟨s, rfl, hregs, rfl⟩
  | succ k ih =>
    obtain ⟨hist, tn, tick, ht, -⟩ := h 0 s hi hon hregs
    rw [finish_fg (by exact hi)] at ht
    obtain ⟨t, hrun, htr, htpc⟩ := ih (regs := fun j => regs (j + 1)) (fun j => h (j + 1))
      (s := passTurn { s with regs := regs 1, ret := 0, pc := s.pc + 1, fgOp := [], hist := hist, turn := tn, tick := tick })
      hi hon rfl
    refine ⟨t, ?_, htr, by rw [htpc]; exact Nat.succ_add_eq_add_succ s.pc k⟩
    rw [aloneTimes, ht]
    exact hrun

section
variable {s : State} (hi : s.irq = .idle) (hon : s.powered = true)
include hi hon

/-- `k` advances with the datapath off move the index by `k` (R308). -/
theorem aloneTimes_advanceConsume {c : Nat} (hoff : s.rxOn = false) (hN : s.nr = Config.nRx)
    (hc : s.regs = { s.regs with rxConsumeIndex := word ((c + 0) % Config.nRx) }) (k : Nat) :
    ∃ t, aloneTimes .advanceConsume 1 k s = .next t ∧
      t.regs = { s.regs with rxConsumeIndex := word ((c + k) % Config.nRx) } ∧ t.pc = s.pc + k := by
  refine aloneTimes_of_endsIn (regs := fun k => { s.regs with rxConsumeIndex := word ((c + k) % Config.nRx) })
    (fun k t hti hton htr => ?_) hi hon hc k
  have htoff : t.rxOn = false := by rw [State.rxOn, htr]; exact hoff
  have htN : t.nr = Config.nRx := by rw [State.nr, htr]; exact hN
  have h := advanceConsume_endsIn (inProgram_of_idle hti) hton (writeCheck_advanceConsume_off htN htoff)
  simpa only [htr, indexAfter, idx_word_of_index nRx_bounds, Nat.mod_add_mod, Nat.add_assoc] using h

theorem aloneTimes_advanceProduce {p : Nat} (hoff : s.txOn = false) (hN : s.nt = Config.nTx)
    (hp : s.regs = { s.regs with txProduceIndex := word ((p + 0) % Config.nTx) }) (k : Nat) :
    ∃ t, aloneTimes .advanceProduce 1 k s = .next t ∧
      t.regs = { s.regs with txProduceIndex := word ((p + k) % Config.nTx) } ∧ t.pc = s.pc + k := by
  refine aloneTimes_of_endsIn (regs := fun k => { s.regs with txProduceIndex := word ((p + k) % Config.nTx) })
    (fun k t hti hton htr => ?_) hi hon hp k
  have htoff : t.txOn = false := by rw [State.txOn, htr]; exact hoff
  have htN : t.nt = Config.nTx := by rw [State.nt, htr]; exact hN
  have h := advanceProduce_endsIn (inProgram_of_idle hti) hton (writeCheck_advanceProduce_off htN htoff)
  simpa only [htr, indexAfter, idx_word_of_index nTx_bounds, Nat.mod_add_mod, Nat.add_assoc] using h

end

/-- Settles O30: `k` advances move the index by `k`, and the whole ring's length moves it to where it was. -/
theorem advanceWrapsAround : Obligations.AdvanceWrapsAround := by
  intro s hi hon
  simp only [← idx_eq_mod]
  refine ⟨fun c hoff hN hc hcN => ?_, fun p hoff hN hp hpN => ?_⟩
  · have hstart : s.regs = { s.regs with rxConsumeIndex := word ((c + 0) % Config.nRx) } := by
      rw [Nat.add_zero, Nat.mod_eq_of_lt hcN, word, ← hc]
    have times := aloneTimes_advanceConsume hi hon hoff hN hstart
    refine ⟨times, (times Config.nRx).imp fun t ht => ⟨ht.1, ht.2.1.trans ?_⟩⟩
    rw [Nat.add_mod_right]
    exact hstart.symm
  · have hstart : s.regs = { s.regs with txProduceIndex := word ((p + 0) % Config.nTx) } := by
      rw [Nat.add_zero, Nat.mod_eq_of_lt hpN, word, ← hp]
    have times := aloneTimes_advanceProduce hi hon hoff hN hstart
    refine ⟨times, (times Config.nTx).imp fun t ht => ⟨ht.1, ht.2.1.trans ?_⟩⟩
    rw [Nat.add_mod_right]
    exact hstart.symm

/-! ### The index checks -/

section
variable {i : Instr} {s u : State} {r : Reg} {fs : List OpFrame} {g : Word → Word}
  (hi : exec i s = .next (putOp fs u)) (hu : Reached s (· = s.mem) u) (hp : s.inProgram) (hon : s.powered = true)
include hi hu hp hon

/-- A command whose second step is its last, a register read from which its result comes. -/
theorem endsIn_of_lastRead (hr : regWriteOnly r = false) (hm : r ≠ .mind) (hs : r ≠ .status)
    (h : ∀ t, microStep fs t = doRead r t fun v t => .ok (t, .ret (g v))) :
    endsIn (aloneCommand i 1 s) s (State.finish (g (readReg r s))) (fun _ => True) := by
  have hrun := runs_read (M := (· = s.mem)) hp hon hr hm hs h fun t => rfl
  obtain ⟨_, rfl, h⟩ := hrun.endsIn hi hu
  exact h

end

/-- Settles O31: the second step reads the other index and compares; on the integers `C - 1` is the model's difference. -/
theorem indexChecks : Obligations.IndexChecks := by
  intro s hon
  simp only [← idx_eq_mod, idx_int]
  refine ⟨exec_checkReceiveIndex hon, exec_checkTransmitIndex hon, ?_, ?_⟩
  · rintro c p hp rfl rfl
    have h := endsIn_of_lastRead (r := .rxProduceIndex) (exec_checkReceiveIndex hon) (Reached.readLogged _ _) hp hon rfl
      nofun nofun (fun t => rfl)
    have hne : ((idx s.regs.rxConsumeIndex : Int) ≠ idx s.regs.rxProduceIndex) ↔
        idx s.regs.rxConsumeIndex ≠ idx s.regs.rxProduceIndex := not_congr Nat.cast_inj
    rw [if_congr hne rfl rfl]
    exact h
  · rintro c p hp rfl rfl
    have h := endsIn_of_lastRead (r := .txProduceIndex) (exec_checkTransmitIndex hon) (Reached.readLogged _ _) hp hon rfl
      nofun nofun (fun t => rfl)
    have hsub := subMod_int (idx s.regs.txConsumeIndex) 1 Config.nTx (Nat.zero_lt_of_lt nTx_bounds.1)
    rw [Nat.cast_one] at hsub
    rw [← hsub, if_congr Nat.cast_inj rfl rfl]
    exact h

end Sys2Proof.Machine
end

section
/-!
PROOFS. WRITE_TX_PACKET and READ_RX_PACKET (spec/41_ring.md R302, R303): their checks, and the copy, word by word.
-/

namespace Sys2Proof.Machine

/-! ### The checks and the first step -/

section
variable {s : State} {buf len : Word} (hon : s.powered = true) (hal : buf.toNat % 4 = 0)
include hon hal

theorem exec_writeTxPacket (hring : s.txRingInit = true) (hpos : 0 < len.toNat) (hlen : len.toNat ≤ Config.frameBufSize) :
    exec (.writeTxPacket buf len) s =
      if (idx s.regs.txProduceIndex + 1) % Config.nTx = s.regs.txConsumeIndex.toNat then
        .fault (.txRingFull (s.site (some 0x128)))
      else .next (putOp [.txPkt (idx s.regs.txProduceIndex) buf.toNat len.toNat]
        (readLogged .txProduceIndex s.regs.txProduceIndex s)) := by
  have h1 : ¬s.txRingInit = false := Bool.not_eq_false _ ▸ hring
  have h2 : ¬(len.toNat < 1 ∨ len.toNat > Config.frameBufSize) := by omega
  have h3 : ¬buf.extractLsb' 0 2 ≠ 0#2 := not_not_intro ((extractLsb'_low2_eq_zero_iff buf).2 hal)
  rw [exec, execWriteTxPacket, if_neg h1, if_neg h2, if_neg h3, doRead_eq hon rfl]
  exact apply_ite opAnswer _ _ _

theorem exec_readRxPacket (hring : s.rxRingInit = true) (hlen : len.toNat ≤ Config.frameBufSize) :
    exec (.readRxPacket buf len) s =
      if s.regs.rxProduceIndex.toNat = idx s.regs.rxConsumeIndex then .fault (.rxRingEmpty (s.site (some 0x118)))
      else if buf = 0 then .next ((readLogged .rxConsumeIndex s.regs.rxConsumeIndex s).finish 0)
      else .next (putOp [.rxPkt (idx s.regs.rxConsumeIndex) buf.toNat len.toNat]
        (readLogged .rxConsumeIndex s.regs.rxConsumeIndex s)) := by
  have h1 : ¬s.rxRingInit = false := Bool.not_eq_false _ ▸ hring
  have h2 : ¬len.toNat > Config.frameBufSize := Nat.not_lt.2 hlen
  have h3 : ¬(buf ≠ 0 ∧ buf.extractLsb' 0 2 ≠ 0#2) := fun h => h.2 ((extractLsb'_low2_eq_zero_iff buf).2 hal)
  rw [exec, execReadRxPacket, if_neg h1, if_neg h2, if_neg h3, doRead_eq hon rfl]
  exact (apply_ite opAnswer _ _ _).trans (congrArg _ (apply_ite opAnswer _ _ _))

end

/-- Settles O26: the checks before the first access in their order, then the read of the driver's index. -/
theorem packetCommandsStart : Obligations.PacketCommandsStart := by
  intro s buf len p c
  simp only [← idx_eq_mod]
  have off {b : Bool} (h : b = true) : ¬b = false := Bool.not_eq_false _ ▸ h
  have odd : buf.toNat % 4 ≠ 0 → buf.extractLsb' 0 2 ≠ 0#2 := mt (extractLsb'_low2_eq_zero_iff buf).1
  refine ⟨fun h => if_pos h, fun h => if_pos h, fun h hl => ?_, fun h hl => ?_, fun h hpos hl hal => ?_, fun h hl hal => ?_,
    ?_, ?_⟩
  · exact (if_neg (off h)).trans (if_pos (by omega))
  · exact (if_neg (off h)).trans (if_pos hl)
  · exact (if_neg (off h)).trans <| (if_neg (by omega)).trans (if_pos (odd hal))
  · have hnull : buf ≠ 0 := by rintro rfl; exact hal rfl
    exact (if_neg (off h)).trans <| (if_neg (Nat.not_lt.2 hl)).trans (if_pos ⟨hnull, odd hal⟩)
  · rintro hon h hpos hl hal rfl
    rw [exec_writeTxPacket hon hal h hpos hl]
    exact ⟨fun hfull => if_pos hfull, fun hfree => if_neg hfree⟩
  · rintro hon h hl hal rfl
    rw [exec_readRxPacket hon hal h hl]
    exact ⟨fun hempty => if_pos hempty, fun hfilled => ⟨fun hnull => (if_neg hfilled).trans (if_pos hnull),
      fun hnull => (if_neg hfilled).trans (if_neg hnull)⟩⟩

/-! ### The copy -/

/-- A byte of a word read is the byte read. -/
theorem byteOf_readWord (m : Memory) (a : Nat) {i : Nat} (hi : i < 4) : byteOf (Memory.readWord m a) i = Memory.read m (a + i) := by
  refine BitVec.eq_of_toNat_eq ?_
  have h0 := (Memory.read m a).isLt
  have h1 := (Memory.read m (a + 1)).isLt
  have h2 := (Memory.read m (a + 2)).isLt
  have h3 := (Memory.read m (a + 3)).isLt
  rw [toNat_byteOf, toNat_readWord]
  interval_cases i
  · change _ = (Memory.read m a).toNat; omega
  all_goals omega

/-- The low `n` bytes of a word are taken from `w` where the mask of the low `n` bytes takes them. -/
theorem byteOf_lowBytes (w d : Word) {n i : Nat} (hn : n < 4) (hi : i < n) :
    byteOf ((w &&& lowBytes n) ||| (d &&& ~~~lowBytes n)) i = byteOf w i := by
  ext b hb
  have hlow : (lowBytes n).getLsbD (8 * i + b) = true := by
    rw [lowBytes, BitVec.getLsbD_ofNat, Nat.testBit_two_pow_sub_one]
    simp only [Bool.and_eq_true, decide_eq_true_eq]
    omega
  simp only [byteOf, BitVec.getElem_extractLsb', BitVec.getLsbD_or, BitVec.getLsbD_and, BitVec.getLsbD_not, hlow, Bool.and_true,
    Bool.not_true, Bool.and_false, Bool.or_false]

/-- READ_RX_PACKET stores the loaded bytes below `len` (R303). -/
theorem byteOf_rxCopyWord {len j i : Nat} (d w : Word) (hlen : 4 * j + i < len) :
    byteOf (rxCopyWord len j d w) i = byteOf w i := by
  unfold rxCopyWord
  split
  · rename_i hlast
    obtain ⟨hj, hrest⟩ := hlast
    unfold wordCount at hj
    exact byteOf_lowBytes w d (by omega) (by omega)
  · rfl

/-- The memory `m` after `j` of the `n` words of a copy from `src` to `dst`, of which the first `bytes` bytes are the source's. -/
structure Copied (s : State) (src dst n bytes j : Nat) (m : Memory) : Prop where
  ownership : KeepsOwnership s m
  frame : ∀ a, a < dst ∨ dst + 4 * j ≤ a → Memory.read m a = Memory.read s.mem a
  data : src + 4 * n ≤ dst ∨ dst + 4 * n ≤ src → ∀ k, k < 4 * j → k < bytes →
    Memory.read m (dst + k) = Memory.read s.mem (src + k)

section
variable {s : State} {src dst n bytes : Nat}

theorem Copied.start : Copied s src dst n bytes 0 s.mem := ⟨KeepsOwnership.self s, fun _ _ => rfl, by omega⟩

/-- One more word, of which only the bytes below `bytes` need be the loaded ones. -/
theorem Copied.store {j : Nat} {m : Memory} {v : Word} (h : Copied s src dst n bytes j m) (hj : j < n)
    (ha : s.accessible (dst + 4 * j))
    (hv : ∀ i, i < 4 → 4 * j + i < bytes → byteOf v i = byteOf (Memory.readWord m (src + 4 * j)) i) :
    Copied s src dst n bytes (j + 1) (Memory.writeWord (dst + 4 * j) v m) := by
  refine ⟨h.ownership.writeWord ha v, fun a hout => ?_, fun hapart k hk hkb => ?_⟩
  · rw [Memory.read_writeWord_other m v (by omega)]
    exact h.frame a (by omega)
  · rcases Nat.lt_or_ge k (4 * j) with hold | hnew
    · rw [Memory.read_writeWord_other m v (by omega)]
      exact h.data hapart k hold hkb
    · obtain ⟨i, rfl⟩ := Nat.exists_eq_add_of_le hnew
      have hi : i < 4 := by omega
      rw [← Nat.add_assoc, ← Nat.add_assoc, ← byteOf_readWord _ _ hi, Memory.readWord_writeWord, hv i hi hkb,
        byteOf_readWord _ _ hi]
      exact h.frame _ (by omega)

end

/-- The control word's fields do not overlap (R302). -/
theorem toNat_txControl {len : Nat} (h : len ≤ Config.frameBufSize) : (txControl len).toNat = 0xC0000000 + (len - 1) := by
  have hlt : len - 1 < 2 ^ 30 := by unfold Config.frameBufSize at h; omega
  have hor := Nat.two_pow_add_eq_or_of_lt hlt 3
  rw [txControl, BitVec.toNat_or, word, BitVec.toNat_ofNat, Nat.mod_eq_of_lt (by omega), Nat.or_comm]
  exact hor.symm

/-- Where READ_RX_PACKET stands before word `j` of its copy. -/
def rxCont (pkt dst len j : Nat) : Cont := if j < wordCount len then .run [.rxRead pkt dst len j] else .ret 0

theorem rxNext_eq (pkt dst len j : Nat) (t : State) : rxNext pkt dst len j [] t = (t, rxCont pkt dst len j) := by
  unfold rxNext rxCont
  split <;> rfl

section
variable {s : State} (hp : s.inProgram)
include hp

/-- The copy of WRITE_TX_PACKET. -/
theorem runs_txCopy {pkt p src len : Nat}
    (hacc : ∀ j, j < wordCount len → s.accessible (src + 4 * j) ∧ s.accessible (pkt + 4 * j)) :
    Runs (2 * wordCount len) (Reached s (· = s.mem)) (.run [txNext pkt p src len 0]) (.run [.txCtl p len])
      (Reached s (Copied s src pkt (wordCount len) (4 * wordCount len) (wordCount len))) := by
  have loop := Runs.loop (b := 2) (n := wordCount len) (c := fun j => .run [txNext pkt p src len j])
    (P := fun j => Reached s (Copied s src pkt (wordCount len) (4 * wordCount len) j)) fun j hj => by
      obtain ⟨hsrc, hdst⟩ := hacc j hj
      have hnext : txNext pkt p src len j = .txRead pkt p src len j := if_pos hj
      simp only [hnext]
      refine runs_copyWord hp (fun m h => h.ownership) hsrc hdst (fun t => rfl) (fun u => rfl) fun w u => ⟨w, rfl, ?_⟩
      rintro m h rfl
      exact h.store hj hdst fun i _ _ => rfl
  have hend : txNext pkt p src len (wordCount len) = .txCtl p len := if_neg (Nat.lt_irrefl _)
  simp only [hend] at loop
  exact loop.pre fun u hu => hu.mono (by rintro _ rfl; exact Copied.start)

/-- The copy of READ_RX_PACKET. -/
theorem runs_rxCopy {pkt dst len : Nat}
    (hacc : ∀ j, j < wordCount len → s.accessible (pkt + 4 * j) ∧ s.accessible (dst + 4 * j)) :
    Runs (2 * wordCount len) (Reached s (· = s.mem)) (rxCont pkt dst len 0) (.ret 0)
      (Reached s (Copied s pkt dst (wordCount len) len (wordCount len))) := by
  have loop := Runs.loop (b := 2) (n := wordCount len) (c := rxCont pkt dst len)
    (P := fun j => Reached s (Copied s pkt dst (wordCount len) len j)) fun j hj => by
      obtain ⟨hsrc, hdst⟩ := hacc j hj
      have hnext : rxCont pkt dst len j = .run [.rxRead pkt dst len j] := if_pos hj
      rw [hnext]
      refine runs_copyWord hp (fun m h => h.ownership) hsrc hdst (rxNext_eq pkt dst len (j + 1)) (fun u => rfl)
        fun w u => ⟨_, rfl, ?_⟩
      rintro m h rfl
      exact h.store hj hdst fun i _ hlt => byteOf_rxCopyWord _ _ hlt
  have hend : rxCont pkt dst len (wordCount len) = .ret 0 := if_neg (Nat.lt_irrefl _)
  rw [hend] at loop
  exact loop.pre fun u hu => hu.mono (by rintro _ rfl; exact Copied.start)

end

/-- Settles O27: the PACKET word is loaded, the words are copied, the CONTROL word is stored. -/
theorem txPacketCopied : Obligations.TxPacketCopied := by
  intro s src len p pkt n ctl hp hon hring hpos hlen hal
  simp only [← idx_eq_mod]
  rintro rfl hfree hpkt rfl rfl hdesc hctl hacc
  have hexec := (exec_writeTxPacket hon hal hring hpos hlen).trans (if_neg hfree)
  generalize idx s.regs.txProduceIndex = p at *
  have load := runs_load (M := (· = s.mem)) (fs := [.txPkt p src.toNat len.toNat])
    (g := fun w => .run [txNext w.toNat p src.toNat len.toNat 0]) hp
    (by rintro _ rfl; exact KeepsOwnership.self s) hdesc (by rintro _ rfl; rfl) fun u => rfl
  rw [← hpkt] at load
  have store := runs_store (M' := fun m => ∃ m₀, Copied s src.toNat pkt (wordCount len.toNat) (4 * wordCount len.toNat)
      (wordCount len.toNat) m₀ ∧ m = Memory.writeWord (txDescBase + 8 * p + 4) (txControl len.toNat) m₀)
    (fs := [.txCtl p len.toNat]) (k := resume 0 []) (c := .ret 0) hp (fun m h => h.ownership) hctl (fun t => rfl)
    fun u => ⟨_, rfl, fun m h => ⟨m, h, rfl⟩⟩
  have run := (load.trans (runs_txCopy hp hacc)).trans store
  obtain ⟨_, ⟨m, hm, rfl⟩, hends⟩ := run.endsIn hexec (Reached.readLogged _ _)
  have hsteps : 2 * ((len.toNat + 3) / 4) + 2 = 1 + 2 * wordCount len.toNat + 1 := by unfold wordCount; omega
  rw [hsteps]
  refine ⟨_, hends, ?_, fun a hin hout => ?_, fun hapart k hk hout => ?_⟩
  · rw [Memory.readWord_writeWord, toNat_txControl hlen]
  · rw [Memory.read_writeWord_other _ _ hout]
    exact hm.frame a hin
  · rw [Memory.read_writeWord_other _ _ hout]
    exact hm.data hapart k hk hk

/-- Settles O28: the PACKET word is loaded and the words are copied. -/
theorem rxPacketCopied : Obligations.RxPacketCopied := by
  intro s dst len c pkt n hp hon hring hlen hnull hal
  simp only [← idx_eq_mod]
  rintro rfl hfilled rfl rfl hdesc hacc
  have hexec := (exec_readRxPacket hon hal hring hlen).trans ((if_neg hfilled).trans (if_neg hnull))
  generalize idx s.regs.rxConsumeIndex = c at *
  have load := runs_load (M := (· = s.mem)) (fs := [.rxPkt c dst.toNat len.toNat])
    (g := fun w => rxCont w.toNat dst.toNat len.toNat 0) hp
    (by rintro _ rfl; exact KeepsOwnership.self s) hdesc (by rintro _ rfl; rfl) fun u => by
      simp only [microStep, rxNext_eq]
  have run := load.trans (runs_rxCopy hp hacc)
  obtain ⟨m, hm, hends⟩ := run.endsIn hexec (Reached.readLogged _ _)
  refine ⟨m, ?_, hm.frame, fun hapart k hk => hm.data hapart k ?_ hk⟩
  · rw [Nat.add_comm]
    exact hends
  · unfold wordCount
    omega

end Sys2Proof.Machine
end

section
/-!
PROOFS. INIT_RX_RING and INIT_TX_RING (spec/41_ring.md R300, R301): a run of stores to places apart from each other, then the
register writes.
-/

namespace Sys2Proof.Machine

/-! ### Runs of stores -/

/-- The address a straight-line micro-step stores a word to. -/
def Micro.target : Micro → Option Nat
  | .memWrite a _ => some a
  | _ => none

/-- The memory after a straight-line micro-step. -/
def Micro.store : Micro → Memory → Memory
  | .memWrite a v, m => Memory.writeWord a v m
  | _, m => m

/-- The memory after a straight-line part. -/
def storeAll (ms : List Micro) (m : Memory) : Memory := ms.foldl (fun m x => x.store m) m

/-- Two micro-steps store to words that do not meet. -/
def Micro.Apart (x y : Micro) : Prop := ∀ a ∈ x.target, ∀ b ∈ y.target, a + 4 ≤ b ∨ b + 4 ≤ a

theorem apart_memWrite_iff {a b : Nat} {v w : Word} :
    (Micro.memWrite a v).Apart (.memWrite b w) ↔ a + 4 ≤ b ∨ b + 4 ≤ a :=
  ⟨fun h => h a rfl b rfl, by rintro h _ ⟨⟩ _ ⟨⟩; exact h⟩

theorem read_store_other {x : Micro} {c : Nat} (h : ∀ a ∈ x.target, c < a ∨ a + 4 ≤ c) (m : Memory) :
    Memory.read (x.store m) c = Memory.read m c := by
  cases x with
  | memWrite a v => exact Memory.read_writeWord_other m v (h a rfl)
  | _ => rfl

/-- A straight-line part leaves the bytes it does not store to. -/
theorem read_storeAll_other {ms : List Micro} {c : Nat} (h : ∀ x ∈ ms, ∀ a ∈ x.target, c < a ∨ a + 4 ≤ c) (m : Memory) :
    Memory.read (storeAll ms m) c = Memory.read m c := by
  induction ms generalizing m with
  | nil => rfl
  | cons x ms ih =>
    obtain ⟨hx, hms⟩ := List.forall_mem_cons.1 h
    exact (ih hms _).trans (read_store_other hx m)

/-- Of stores to places apart each word stands at the end. -/
theorem readWord_storeAll {ms : List Micro} (h : ms.Pairwise Micro.Apart) {a : Nat} {v : Word} (hv : .memWrite a v ∈ ms)
    (m : Memory) : Memory.readWord (storeAll ms m) a = v := by
  induction ms generalizing m with
  | nil => cases hv
  | cons x ms ih =>
    obtain ⟨hx, hms⟩ := List.pairwise_cons.1 h
    rcases List.mem_cons.1 hv with rfl | hv
    · have keep {k : Nat} (hk : k < 4) := read_storeAll_other (c := a + k)
        (fun y hy b hb => by have := hx y hy a rfl b hb; omega) (Memory.writeWord a v m)
      have hword : Memory.readWord (storeAll ms (Memory.writeWord a v m)) a = Memory.readWord (Memory.writeWord a v m) a := by
        simp only [Memory.readWord]
        rw [keep (k := 1) (by omega), keep (k := 2) (by omega), keep (k := 3) (by omega)]
        exact congrArg _ (keep (k := 0) (by omega))
      exact hword.trans (Memory.readWord_writeWord m a v)
    · exact ih hms hv _

/-- The stores of a straight-line part that goes on after them. -/
theorem runs_stores {s : State} {ms rest : List Micro} (fs : List OpFrame) (hp : s.inProgram) (hrest : rest ≠ [])
    (hms : ∀ x ∈ ms, ∃ a v, x = .memWrite a v ∧ s.accessible a) (m : Memory) :
    Runs ms.length (Reached s fun m' => KeepsOwnership s m' ∧ m' = m) (.run (.seq (ms ++ rest) :: fs)) (.run (.seq rest :: fs))
      (Reached s fun m' => KeepsOwnership s m' ∧ m' = storeAll ms m) := by
  induction ms generalizing m with
  | nil => exact Runs.refl _ _
  | cons x ms ih =>
    obtain ⟨⟨a, v, rfl, ha⟩, hrestms⟩ := List.forall_mem_cons.1 hms
    have hk : ∀ t, seqRest (ms ++ rest) fs t = (t, .run (.seq (ms ++ rest) :: fs)) := by
      obtain ⟨y, ys, hy⟩ := List.exists_cons_of_ne_nil (List.append_ne_nil_of_right_ne_nil ms hrest)
      rw [hy]
      exact fun t => rfl
    have store := runs_store (M := fun m' => KeepsOwnership s m' ∧ m' = m)
      (M' := fun m' => KeepsOwnership s m' ∧ m' = Memory.writeWord a v m) (fs := .seq (.memWrite a v :: (ms ++ rest)) :: fs)
      hp (fun m' h => h.1) ha hk fun u => ⟨v, rfl, by rintro _ ⟨hown, rfl⟩; exact ⟨hown.writeWord ha v, rfl⟩⟩
    rw [List.length_cons, Nat.add_comm]
    exact store.trans (ih hrestms _)

/-! ### The ring memory area (R104) -/

theorem ring_layout : rxDescBase = 0x2007C000 ∧ rxStatBase = rxDescBase + 8 * Config.nRx ∧
    txDescBase = rxStatBase + 8 * Config.nRx ∧ txStatBase = txDescBase + 8 * Config.nTx ∧
    rxBufBase = txStatBase + 4 * Config.nTx ∧ txBufBase = rxBufBase + 1536 * Config.nRx ∧
    (2 ≤ Config.nRx ∧ Config.nRx ≤ 65536) ∧ 2 ≤ Config.nTx ∧ Config.nTx ≤ 65536 :=
  ⟨rfl, rfl, rfl, rfl, rfl, rfl, nRx_bounds, nTx_bounds⟩

theorem toNat_word {n : Nat} (h : n < 2 ^ 32) : (word n).toNat = n := by
  rw [word, BitVec.toNat_ofNat, Nat.mod_eq_of_lt h]

/-- The frame buffers of a ring do not meet (R104). -/
theorem frameBuf_apart (base : Nat) {i j : Nat} (h : i < j) :
    base + Config.frameBufSize * i + Config.frameBufSize ≤ base + Config.frameBufSize * j := by
  unfold Config.frameBufSize
  omega

/-- A slot's stores go to its descriptor and its status entry. -/
theorem mem_rxSlotWrites {i : Nat} {x : Micro} (h : x ∈ rxSlotWrites i) : ∃ a v, x = .memWrite a v ∧
    (a = rxDescBase + 8 * i ∨ a = rxDescBase + 8 * i + 4 ∨ a = rxStatBase + 8 * i ∨ a = rxStatBase + 8 * i + 4) := by
  simp only [rxSlotWrites, List.mem_cons, List.not_mem_nil, or_false] at h
  rcases h with rfl | rfl | rfl | rfl <;> exact ⟨_, _, rfl, by omega⟩

theorem mem_txSlotWrites {i : Nat} {x : Micro} (h : x ∈ txSlotWrites i) : ∃ a v, x = .memWrite a v ∧
    (a = txDescBase + 8 * i ∨ a = txDescBase + 8 * i + 4 ∨ a = txStatBase + 4 * i) := by
  simp only [txSlotWrites, List.mem_cons, List.not_mem_nil, or_false] at h
  rcases h with rfl | rfl | rfl <;> exact ⟨_, _, rfl, by omega⟩

/-- The slots of a ring in order: its stores are apart where those of one slot and those of two slots are. -/
theorem pairwise_slots {n : Nat} {f : Nat → List Micro} (hslot : ∀ i, i < n → (f i).Pairwise Micro.Apart)
    (htwo : ∀ i j, i < j → j < n → ∀ x ∈ f i, ∀ y ∈ f j, x.Apart y) : ((List.range n).flatMap f).Pairwise Micro.Apart := by
  rw [List.pairwise_flatMap]
  refine ⟨fun i hi => hslot i (List.mem_range.1 hi), List.pairwise_lt_range.imp_of_mem fun _ hj hij => ?_⟩
  exact htwo _ _ hij (List.mem_range.1 hj)

theorem rxSlots_apart : ((List.range Config.nRx).flatMap rxSlotWrites).Pairwise Micro.Apart := by
  have hlayout := ring_layout
  refine pairwise_slots (fun i hi => ?_) fun i j hij hj x hx y hy => ?_
  · simp only [rxSlotWrites, List.pairwise_cons, List.Pairwise.nil, List.forall_mem_cons, apart_memWrite_iff, List.not_mem_nil,
      false_imp_iff, implies_true, and_true]
    omega
  · obtain ⟨a, v, rfl, ha⟩ := mem_rxSlotWrites hx
    obtain ⟨b, w, rfl, hb⟩ := mem_rxSlotWrites hy
    rw [apart_memWrite_iff]
    omega

theorem txSlots_apart : ((List.range Config.nTx).flatMap txSlotWrites).Pairwise Micro.Apart := by
  have hlayout := ring_layout
  refine pairwise_slots (fun i hi => ?_) fun i j hij hj x hx y hy => ?_
  · simp only [txSlotWrites, List.pairwise_cons, List.Pairwise.nil, List.forall_mem_cons, apart_memWrite_iff, List.not_mem_nil,
      false_imp_iff, implies_true, and_true]
    omega
  · obtain ⟨a, v, rfl, ha⟩ := mem_txSlotWrites hx
    obtain ⟨b, w, rfl, hb⟩ := mem_txSlotWrites hy
    rw [apart_memWrite_iff]
    omega

/-- The stores of INIT_RX_RING lie in the RX arrays. -/
theorem mem_rxSlots {x : Micro} (h : x ∈ (List.range Config.nRx).flatMap rxSlotWrites) :
    ∃ a v, x = .memWrite a v ∧ a % 4 = 0 ∧ rxDescBase ≤ a ∧ a + 4 ≤ txDescBase := by
  have hlayout := ring_layout
  obtain ⟨i, hi, hx⟩ := List.mem_flatMap.1 h
  have hi := List.mem_range.1 hi
  obtain ⟨a, v, rfl, ha⟩ := mem_rxSlotWrites hx
  exact ⟨a, v, rfl, by omega⟩

/-- The stores of INIT_TX_RING lie in the TX arrays. -/
theorem mem_txSlots {x : Micro} (h : x ∈ (List.range Config.nTx).flatMap txSlotWrites) :
    ∃ a v, x = .memWrite a v ∧ a % 4 = 0 ∧ txDescBase ≤ a ∧ a + 4 ≤ rxBufBase := by
  have hlayout := ring_layout
  obtain ⟨i, hi, hx⟩ := List.mem_flatMap.1 h
  have hi := List.mem_range.1 hi
  obtain ⟨a, v, rfl, ha⟩ := mem_txSlotWrites hx
  exact ⟨a, v, rfl, by omega⟩

theorem length_flatMap_range {n k : Nat} {f : Nat → List Micro} (h : ∀ i, (f i).length = k) :
    ((List.range n).flatMap f).length = k * n := by
  simp [List.length_flatMap, h, Nat.mul_comm]

/-! ### The register writes -/

/-- The low bits a base register's mask clears are zero in an aligned address. -/
theorem and_of_low2 {v : Word} (h : v.toNat % 4 = 0) : v &&& 0xFFFFFFFC#32 = v := by
  refine (and_not_eq_zero_iff v 0xFFFFFFFC#32).1 (BitVec.eq_of_toNat_eq ?_)
  rw [BitVec.toNat_and]
  exact (Nat.and_two_pow_sub_one_eq_mod v.toNat 2).trans h

theorem and_of_low3 {v : Word} (h : v.toNat % 8 = 0) : v &&& 0xFFFFFFF8#32 = v := by
  refine (and_not_eq_zero_iff v 0xFFFFFFF8#32).1 (BitVec.eq_of_toNat_eq ?_)
  rw [BitVec.toNat_and]
  exact (Nat.and_two_pow_sub_one_eq_mod v.toNat 3).trans h

theorem extractLsb'_low3_of_mod {v : Word} (h : v.toNat % 8 = 0) : v.extractLsb' 0 3 = 0#3 := by
  refine BitVec.eq_of_toNat_eq ?_
  rw [BitVec.extractLsb'_toNat, Nat.shiftRight_zero]
  exact h

/-- The last index of a ring of `n` slots is as wide as the ring's size register. -/
theorem idx_word_pred {n : Nat} (hn : 2 ≤ n ∧ n ≤ 65536) : idx (word (n - 1)) = n - 1 := by
  have h : (n - 1) % n = n - 1 := Nat.mod_eq_of_lt (by omega)
  rw [← h, idx_word_of_index hn, h]

theorem word_pred_masked {n : Nat} (hn : 2 ≤ n ∧ n ≤ 65536) : word (n - 1) &&& 0x0000FFFF#32 = word (n - 1) := by
  have h : (n - 1) % n = n - 1 := Nat.mod_eq_of_lt (by omega)
  rw [← h, word_of_index_masked hn]

section
variable {s : State} {v : Word}

/-- With the datapath off an aligned base address passes its checks (R221). -/
theorem writeCheck_rxDescriptor_off (hoff : s.rxOn = false) (h : v.toNat % 4 = 0) : writeCheck .rxDescriptor v s = none :=
  (if_neg (Bool.eq_false_iff.1 hoff)).trans (if_neg (not_not_intro ((extractLsb'_low2_eq_zero_iff v).2 h)))

theorem writeCheck_rxStatus_off (hoff : s.rxOn = false) (h : v.toNat % 8 = 0) : writeCheck .rxStatus v s = none :=
  (if_neg (Bool.eq_false_iff.1 hoff)).trans (if_neg (not_not_intro (extractLsb'_low3_of_mod h)))

theorem writeCheck_txDescriptor_off (hoff : s.txOn = false) (h : v.toNat % 4 = 0) : writeCheck .txDescriptor v s = none :=
  (if_neg (Bool.eq_false_iff.1 hoff)).trans (if_neg (not_not_intro ((extractLsb'_low2_eq_zero_iff v).2 h)))

theorem writeCheck_txStatus_off (hoff : s.txOn = false) (h : v.toNat % 4 = 0) : writeCheck .txStatus v s = none :=
  (if_neg (Bool.eq_false_iff.1 hoff)).trans (if_neg (not_not_intro ((extractLsb'_low2_eq_zero_iff v).2 h)))

end

/-- INIT_RX_RING after its stores (R300). -/
def rxRingRegs : List Micro :=
  [.write .rxDescriptor (word rxDescBase), .write .rxStatus (word rxStatBase),
   .write .rxDescriptorNumber (word (Config.nRx - 1)), .write .rxConsumeIndex 0]

theorem rxRingSeq_eq : rxRingSeq = (List.range Config.nRx).flatMap rxSlotWrites ++ rxRingRegs := rfl

/-- INIT_TX_RING after its stores (R301). -/
def txRingRegs : List Micro :=
  [.write .txDescriptor (word txDescBase), .write .txStatus (word txStatBase),
   .write .txDescriptorNumber (word (Config.nTx - 1)), .write .txProduceIndex 0]

theorem txRingSeq_eq : txRingSeq = (List.range Config.nTx).flatMap txSlotWrites ++ txRingRegs := rfl

/-- The state after INIT_RX_RING, its memory and its end apart. -/
def rxRingDone (s : State) : State := { s with
  rxRingInit := true
  regs := { s.regs with
    rxDescriptor := word rxDescBase
    rxStatus := word rxStatBase
    rxDescriptorNumber := word (Config.nRx - 1)
    rxConsumeIndex := 0 } }

/-- The state after INIT_TX_RING, its memory and its end apart. -/
def txRingDone (s : State) : State := { s with
  txRingInit := true
  regs := { s.regs with
    txDescriptor := word txDescBase
    txStatus := word txStatBase
    txDescriptorNumber := word (Config.nTx - 1)
    txProduceIndex := 0 } }

section
variable {s : State} {M : Memory → Prop} (hp : s.inProgram) (hon : s.powered = true)
include hp hon

theorem runs_rxRingRegs (hoff : s.rxOn = false) (hP : s.regs.rxProduceIndex.toNat < Config.nRx)
    (hC : s.regs.rxConsumeIndex.toNat < Config.nRx) :
    Runs 4 (Reached s M) (.run [.seq rxRingRegs, .rxDone]) (.ret 0) (Reached (rxRingDone s) M) := by
  have hlayout := ring_layout
  have hdesc : (word rxDescBase).toNat % 4 = 0 := by rw [toNat_word (by omega)]; omega
  have hstat : (word rxStatBase).toNat % 8 = 0 := by rw [toNat_word (by omega)]; omega
  have hsize : s.regs.rxProduceIndex.toNat ≤ idx (word (Config.nRx - 1)) ∧
      s.regs.rxConsumeIndex.toNat ≤ idx (word (Config.nRx - 1)) := by
    rw [idx_word_pred nRx_bounds]
    omega
  refine runs_writeThen hp hon rfl (writeCheck_rxDescriptor_off hoff hdesc) nofun nofun nofun
    (congrArg (fun w => { s.regs with rxDescriptor := w }) (and_of_low2 hdesc)) ?_
  refine runs_writeThen hp hon rfl (writeCheck_rxStatus_off hoff hstat) nofun nofun nofun
    (congrArg (fun w => { s.regs with rxDescriptor := word rxDescBase, rxStatus := w }) (and_of_low3 hstat)) ?_
  refine runs_writeThen hp hon rfl (writeCheck_rxDescriptorNumber.2 ⟨hoff, hsize⟩) nofun nofun nofun
    (congrArg (fun w => { s.regs with rxDescriptor := word rxDescBase, rxStatus := word rxStatBase, rxDescriptorNumber := w })
      (word_pred_masked nRx_bounds)) ?_
  refine runs_write hp hon rfl (writeCheck_rxConsumeIndex.2 ⟨Nat.succ_pos _, fun on => absurd on (Bool.eq_false_iff.1 hoff)⟩)
    nofun nofun nofun rfl fun u hu => ⟨_, rfl, ?_⟩
  obtain ⟨m, _, _, _, hm, rfl⟩ := hu
  exact ⟨m, _, _, _, hm, rfl⟩

theorem runs_txRingRegs (hoff : s.txOn = false) (hP : s.regs.txProduceIndex.toNat < Config.nTx)
    (hC : s.regs.txConsumeIndex.toNat < Config.nTx) :
    Runs 4 (Reached s M) (.run [.seq txRingRegs, .txDone]) (.ret 0) (Reached (txRingDone s) M) := by
  have hlayout := ring_layout
  have hdesc : (word txDescBase).toNat % 4 = 0 := by rw [toNat_word (by omega)]; omega
  have hstat : (word txStatBase).toNat % 4 = 0 := by rw [toNat_word (by omega)]; omega
  have hsize : s.regs.txProduceIndex.toNat ≤ idx (word (Config.nTx - 1)) ∧
      s.regs.txConsumeIndex.toNat ≤ idx (word (Config.nTx - 1)) := by
    rw [idx_word_pred nTx_bounds]
    omega
  refine runs_writeThen hp hon rfl (writeCheck_txDescriptor_off hoff hdesc) nofun nofun nofun
    (congrArg (fun w => { s.regs with txDescriptor := w }) (and_of_low2 hdesc)) ?_
  refine runs_writeThen hp hon rfl (writeCheck_txStatus_off hoff hstat) nofun nofun nofun
    (congrArg (fun w => { s.regs with txDescriptor := word txDescBase, txStatus := w }) (and_of_low2 hstat)) ?_
  refine runs_writeThen hp hon rfl (writeCheck_txDescriptorNumber.2 ⟨hoff, hsize⟩) nofun nofun nofun
    (congrArg (fun w => { s.regs with txDescriptor := word txDescBase, txStatus := word txStatBase, txDescriptorNumber := w })
      (word_pred_masked nTx_bounds)) ?_
  refine runs_write hp hon rfl (writeCheck_txProduceIndex.2 ⟨Nat.succ_pos _, fun on => absurd on (Bool.eq_false_iff.1 hoff)⟩)
    nofun nofun nofun rfl fun u hu => ⟨_, rfl, ?_⟩
  obtain ⟨m, _, _, _, hm, rfl⟩ := hu
  exact ⟨m, _, _, _, hm, rfl⟩

end

/-! ### The whole commands -/

/-- FG's position in its operation. -/
theorem putOp_fg {s : State} (h : s.irq = .idle) (fs : List OpFrame) : putOp fs s = { s with fgOp := fs } := by
  simp only [putOp, h]

section
variable {s : State} (hi : s.irq = .idle) (hon : s.powered = true)
include hi hon

theorem exec_initRxRing : exec .initRxRing s =
    if s.regs.command.getLsbD 0 = true then .fault (.ringConfigWhileEnabled (s.site (some 0x100)))
    else .next (putOp [.seq rxRingSeq, .rxDone] (readLogged .command s.regs.command s)) := by
  rw [exec, execInitRxRing, if_neg (not_not_intro hi), opRun, microStep, doRead_eq hon rfl]
  exact apply_ite opAnswer _ _ _

theorem exec_initTxRing : exec .initTxRing s =
    if s.regs.command.getLsbD 1 = true then .fault (.ringConfigWhileEnabled (s.site (some 0x100)))
    else .next (putOp [.seq txRingSeq, .txDone] (readLogged .command s.regs.command s)) := by
  rw [exec, execInitTxRing, if_neg (not_not_intro hi), opRun, microStep, doRead_eq hon rfl]
  exact apply_ite opAnswer _ _ _

end

section
variable {slots : List Micro} {lo hi : Nat}
  (hslots : ∀ x ∈ slots, ∃ a v, x = .memWrite a v ∧ a % 4 = 0 ∧ lo ≤ a ∧ a + 4 ≤ hi)
include hslots

/-- Stores between `lo` and `hi` leave every byte outside. -/
theorem read_storeAll_outside {c : Nat} (hc : c < lo ∨ hi ≤ c) (m : Memory) :
    Memory.read (storeAll slots m) c = Memory.read m c := by
  refine read_storeAll_other (fun x hx b hb => ?_) m
  obtain ⟨a, v, rfl, -, hlo, hhi⟩ := hslots x hx
  cases hb
  omega

/-- A ring initialisation: the stores, where nothing between `lo` and `hi` is the hardware's, then the register writes. -/
theorem initRing_endsIn {i : Instr} {regs : List Micro} {done : OpFrame} {u s s' : State} {n : Nat} (hp : s.inProgram)
    (hexec : exec i s = .next (putOp [.seq (slots ++ regs), done] u)) (hu : Reached s (· = s.mem) u) (hne : regs ≠ [])
    (hwindow : hi ≤ Config.emacBase) (hfree : ∀ a, lo ≤ a → a < hi → hwOwned s a = false)
    (hregs : ∀ M, Runs n (Reached s M) (.run [.seq regs, done]) (.ret 0) (Reached s' M)) :
    endsIn (aloneCommand i (slots.length + n) s) { s' with mem := storeAll slots s.mem } (State.finish 0) (fun _ => True) := by
  have stores := runs_stores [done] hp hne (fun x hx => by
    obtain ⟨a, v, rfl, hal, hlo, hhi⟩ := hslots x hx
    unfold Config.emacBase at hwindow
    exact ⟨a, v, rfl, hal, by omega, .inl (by unfold Config.emacBase; omega), hfree a hlo (by omega)⟩) s.mem
  have hstart := hu.mono (M' := fun m => KeepsOwnership s m ∧ m = s.mem) (by rintro _ rfl; exact ⟨KeepsOwnership.self s, rfl⟩)
  obtain ⟨_, ⟨-, rfl⟩, hends⟩ := (stores.trans (hregs _)).endsIn hexec hstart
  exact hends

end

/-- Settles O24: the stores are apart and lie in the RX arrays, and each register write passes its checks. -/
theorem rxRingInitialised : Obligations.RxRingInitialised := by
  have hlayout := ring_layout
  refine ⟨fun s hi hon => ⟨fun on => ?_, fun off => ?_⟩, fun s hi hon hoff hP hC hfree => ?_,
    fun i j hij _ => frameBuf_apart rxBufBase hij, rfl⟩
  · exact (exec_initRxRing hi hon).trans (if_pos on)
  · rw [exec_initRxRing hi hon, if_neg (Bool.eq_false_iff.1 off), putOp_fg (by exact hi)]
  · have stored {i : Nat} (hlt : i < Config.nRx) {a : Nat} {v : Word} (hv : .memWrite a v ∈ rxSlotWrites i) :
        Memory.readWord (storeAll ((List.range Config.nRx).flatMap rxSlotWrites) s.mem) a = v :=
      readWord_storeAll rxSlots_apart (List.mem_flatMap.2 ⟨i, List.mem_range.2 hlt, hv⟩) s.mem
    have hp := inProgram_of_idle hi
    have hexec := (exec_initRxRing hi hon).trans (if_neg (Bool.eq_false_iff.1 hoff))
    rw [rxRingSeq_eq] at hexec
    have hends := initRing_endsIn (fun x => mem_rxSlots) hp hexec (Reached.readLogged _ _) nofun
      (by unfold Config.emacBase; omega) hfree fun M => runs_rxRingRegs hp hon hoff hP hC
    rw [length_flatMap_range (k := 4) fun i => rfl] at hends
    refine ⟨_, hends, fun i hlt => ⟨?_, ?_, ?_, ?_⟩, fun a ha => ?_⟩
    · rw [stored hlt (v := word (rxBuf i)) (by simp [rxSlotWrites]), toNat_word]
      unfold rxBuf Config.frameBufSize
      omega
    · rw [stored hlt (v := 0x80000000#32 ||| word (Config.frameBufSize - 1)) (by simp [rxSlotWrites])]
      rfl
    · exact stored hlt (by simp [rxSlotWrites])
    · exact stored hlt (by simp [rxSlotWrites])
    · exact read_storeAll_outside (fun x => mem_rxSlots) ha s.mem

/-- Settles O25: the stores are apart and lie in the TX arrays, and each register write passes its checks. -/
theorem txRingInitialised : Obligations.TxRingInitialised := by
  have hlayout := ring_layout
  refine ⟨fun s hi hon => ⟨fun on => ?_, fun off => ?_⟩, fun s hi hon hoff hP hC hfree => ?_,
    fun i j hij _ => frameBuf_apart txBufBase hij, rfl⟩
  · exact (exec_initTxRing hi hon).trans (if_pos on)
  · rw [exec_initTxRing hi hon, if_neg (Bool.eq_false_iff.1 off), putOp_fg (by exact hi)]
  · have stored {i : Nat} (hlt : i < Config.nTx) {a : Nat} {v : Word} (hv : .memWrite a v ∈ txSlotWrites i) :
        Memory.readWord (storeAll ((List.range Config.nTx).flatMap txSlotWrites) s.mem) a = v :=
      readWord_storeAll txSlots_apart (List.mem_flatMap.2 ⟨i, List.mem_range.2 hlt, hv⟩) s.mem
    have hp := inProgram_of_idle hi
    have hexec := (exec_initTxRing hi hon).trans (if_neg (Bool.eq_false_iff.1 hoff))
    rw [txRingSeq_eq] at hexec
    have hends := initRing_endsIn (fun x => mem_txSlots) hp hexec (Reached.readLogged _ _) nofun
      (by unfold Config.emacBase; omega) hfree fun M => runs_txRingRegs hp hon hoff hP hC
    rw [length_flatMap_range (k := 3) fun i => rfl] at hends
    refine ⟨_, hends, fun i hlt => ⟨?_, ?_, ?_⟩, fun a ha => ?_⟩
    · rw [stored hlt (v := word (txBuf i)) (by simp [txSlotWrites]), toNat_word]
      unfold txBuf Config.frameBufSize
      omega
    · exact stored hlt (by simp [txSlotWrites])
    · exact stored hlt (by simp [txSlotWrites])
    · exact read_storeAll_outside (fun x => mem_txSlots) ha s.mem

end Sys2Proof.Machine
end

section
/-!
PROOFS. The PHY accesses one micro-step at a time (spec/42_phy.md R352 to R354, R708), and what the PHY operations make of the
results (R355 to R362).
-/

namespace Sys2Proof.Machine

/-! ### Register writes inside an operation -/

section
variable {r : Reg} {v : Word} {s : State} {f : FaultSite → Fault} (k : State → State × Cont) (hp : s.powered = true)
  (hr : regReadOnly r = false)
include hp hr

theorem doWrite_eq (hc : writeCheck r v s = none) :
    doWrite r v s k = .ok (k ((writeEffect r v s).log (.bus s.agent r.offset .write v))) := by
  rw [doWrite, busWrite_eq hp hr hc]

theorem doWrite_eq_error (hc : writeCheck r v s = some f) :
    doWrite r v s k = .error (f (s.site (some r.offset.toNat))) := by
  rw [doWrite, busWrite_eq_error hp hr hc]

end

theorem not_busy {m : Mii} (h : m = .idle) : ¬m.busy = true := (Mii.busy_iff m).not.2 (not_not.2 h)

/-- With no cycle in flight only the start of one can be refused (R212). -/
theorem writeCheck_mcmd_idle {v : Word} {s : State} (hscan : v.getLsbD 1 = false) (hm : s.mii = .idle)
    (h : ¬(s.regs.mcmd.getLsbD 0 = false ∧ v.getLsbD 0 = true ∧ s.regs.mcfg.getLsbD 15 = true)) :
    writeCheck .mcmd v s = none :=
  (if_neg (Bool.eq_false_iff.1 hscan)).trans ((if_neg (not_busy hm)).trans (if_neg h))

/-! ### The address of a PHY access (R352, R708) -/

theorem madrValue_eq (reg : MiiAddr) : madrValue reg = BitVec.ofNat 32 (256 + reg.toNat) := by
  revert reg; decide

theorem madrValue_masked (reg : MiiAddr) : madrValue reg &&& 0x00001F1F = madrValue reg := by
  revert reg; decide

/-- The block after the MADR write of an access to PHY register `reg`. -/
def addressed (reg : MiiAddr) (s : State) : State :=
  writeLogged .madr (BitVec.ofNat 32 (256 + reg.toNat)) (addressRegs reg.toNat s) s

theorem accessStarted_eq {reg : Nat} (hreg : reg < 32) (fs : List OpFrame) (s : State) :
    accessStarted reg fs s = putOp fs (addressed (BitVec.ofNat 5 reg) s) := by
  rw [addressed, BitVec.toNat_ofNat, Nat.mod_eq_of_lt hreg]; rfl

/-- MADR then holds the two addresses (R43). -/
theorem madr_fields (reg : MiiAddr) : (BitVec.ofNat 32 (256 + reg.toNat)).extractLsb' 8 5 = 1#5 ∧
    (BitVec.ofNat 32 (256 + reg.toNat)).extractLsb' 0 5 = reg := by
  revert reg; decide

section
variable {s : State} (reg : MiiAddr) (k : State → State × Cont) (hp : s.powered = true)
include hp

theorem doAddress_eq (hm : s.mii = .idle) (hs : s.phySplit = false) :
    doAddress reg s k = .ok (k (addressed reg s)) := by
  have hc : writeCheck .madr (madrValue reg) s = none := if_neg (not_busy hm)
  have hw : writeRegs .madr (madrValue reg) s.regs = addressRegs reg.toNat s := by
    rw [addressRegs, ← madrValue_eq]
    exact congrArg (fun w => { s.regs with madr := w }) (madrValue_masked reg)
  have he := writeEffect_plain (r := .madr) (madrValue reg) s nofun nofun nofun
  rw [doAddress, if_neg (Bool.eq_false_iff.1 hs), doWrite_eq k hp rfl hc, he, hw, madrValue_eq]
  rfl

/-- A cycle in flight, or a split of FG's access by a callback's, is an overlap. -/
theorem doAddress_overlap (h : s.mii ≠ .idle ∨ s.phySplit = true) :
    doAddress reg s k = .error (.miiBusyOverlap (s.site (some 0x028))) := by
  by_cases hs : s.phySplit = true
  · rw [doAddress, if_pos hs]; rfl
  · have hc : writeCheck .madr (madrValue reg) s = some .miiBusyOverlap :=
      if_pos ((Mii.busy_iff _).2 (h.resolve_right hs))
    rw [doAddress, if_neg hs, doWrite_eq_error k hp rfl hc]; rfl

end

/-! ### The micro-steps of WRITE_PHY and READ_PHY (R353, R354) -/

/-- The block after a poll of MIND. -/
def polled (s : State) : State := readLogged .mind (mindValue s) s

theorem mindValue_busy (s : State) : (mindValue s).getLsbD 0 = s.mii.busy := by rw [mindValue_getLsbD]; simp

section
variable {s : State} (fs : List OpFrame) (hp : s.powered = true)
include hp

theorem microStep_wpMadr (reg : MiiAddr) (value : Half) (hm : s.mii = .idle) (hs : s.phySplit = false) :
    microStep (.wpMadr reg value :: fs) s = .ok (addressed reg s, .run (.wpMwtd value :: fs)) := doAddress_eq reg _ hp hm hs

theorem microStep_rpMadr (reg : MiiAddr) (hm : s.mii = .idle) (hs : s.phySplit = false) :
    microStep (.rpMadr reg :: fs) s = .ok (addressed reg s, .run (.rpMcmd :: fs)) := doAddress_eq reg _ hp hm hs

theorem microStep_wpMwtd (value : Half) (hm : s.mii = .idle) (hres : s.regs.mcfg.getLsbD 15 = false) :
    microStep (.wpMwtd value :: fs) s = .ok ({ writeLogged .mwtd (value.setWidth 32) s.regs s with
      mii := .write (s.regs.madr.extractLsb' 8 5) (s.regs.madr.extractLsb' 0 5) value },
      .run (.wpPoll (Config.miiRetries - 1) :: fs)) := by
  have hc : writeCheck .mwtd (value.setWidth 32) s = none :=
    (if_neg (not_busy hm)).trans (if_neg (Bool.eq_false_iff.1 hres))
  have hd : (value.setWidth 32).extractLsb' 0 16 = value := extractLsb'_setWidth_low value (by decide)
  rw [microStep, doWrite_eq _ hp rfl hc, writeEffect, writeMii, hd]
  rfl

theorem microStep_wpMwtd_inReset (value : Half) (hm : s.mii = .idle) (hres : s.regs.mcfg.getLsbD 15 = true) :
    microStep (.wpMwtd value :: fs) s = .error (.miiInReset (s.site (some 0x02C))) := by
  have hc : writeCheck .mwtd (value.setWidth 32) s = some .miiInReset :=
    (if_neg (not_busy hm)).trans (if_pos hres)
  rw [microStep, doWrite_eq_error _ hp rfl hc]; rfl

/-- With MCMD.READ 0 the write of 1 starts a read cycle (R212). -/
theorem microStep_rpMcmd_start (hm : s.mii = .idle) (hread : s.regs.mcmd.getLsbD 0 = false)
    (hres : s.regs.mcfg.getLsbD 15 = false) :
    microStep (.rpMcmd :: fs) s = .ok ({ writeLogged .mcmd 1 { s.regs with mcmd := 1 } s with
      mii := .read (s.regs.madr.extractLsb' 8 5) (s.regs.madr.extractLsb' 0 5) },
      .run (.rpPoll (Config.miiRetries - 1) :: fs)) := by
  have hc : writeCheck .mcmd 1 s = none := writeCheck_mcmd_idle rfl hm fun h => Bool.eq_false_iff.1 hres h.2.2
  rw [microStep, doWrite_eq _ hp rfl hc, writeEffect_mcmd_start ⟨hread, rfl⟩]
  rfl

/-- With MCMD.READ 1 already, it starts none, in MII reset too (R212, R707). -/
theorem microStep_rpMcmd_stale (hm : s.mii = .idle) (hread : s.regs.mcmd.getLsbD 0 = true) :
    microStep (.rpMcmd :: fs) s =
      .ok (writeLogged .mcmd 1 { s.regs with mcmd := 1 } s, .run (.rpPoll (Config.miiRetries - 1) :: fs)) := by
  have hc : writeCheck .mcmd 1 s = none := writeCheck_mcmd_idle rfl hm fun h => Bool.eq_false_iff.1 h.1 hread
  rw [microStep, doWrite_eq _ hp rfl hc, writeEffect_mcmd_keep (by simp [hread])]
  rfl

theorem microStep_rpMcmd_inReset (hm : s.mii = .idle) (hread : s.regs.mcmd.getLsbD 0 = false)
    (hres : s.regs.mcfg.getLsbD 15 = true) :
    microStep (.rpMcmd :: fs) s = .error (.miiInReset (s.site (some 0x024))) := by
  have hc : writeCheck .mcmd 1 s = some .miiInReset := by
    rw [writeCheck, if_neg (by decide), if_neg (not_busy hm), if_pos ⟨hread, rfl, hres⟩]
  rw [microStep, doWrite_eq_error _ hp rfl hc]; rfl

theorem microStep_wpPoll_idle (left : Nat) (hm : s.mii = .idle) :
    microStep (.wpPoll left :: fs) s = .ok (resume 0 fs (polled s)) := by
  rw [microStep, doRead_eq hp rfl]
  exact if_pos ((mindValue_busy s).trans (Mii.busy_of_idle hm))

theorem microStep_rpPoll_idle (left : Nat) (hm : s.mii = .idle) :
    microStep (.rpPoll left :: fs) s = .ok (polled s, .run (.rpClear :: fs)) := by
  rw [microStep, doRead_eq hp rfl]
  exact if_pos ((mindValue_busy s).trans (Mii.busy_of_idle hm))

theorem microStep_rpClear (hm : s.mii = .idle) :
    microStep (.rpClear :: fs) s = .ok (writeLogged .mcmd 0 { s.regs with mcmd := 0 } s, .run (.rpData :: fs)) := by
  have hc : writeCheck .mcmd 0 s = none := writeCheck_mcmd_idle rfl hm fun h => by simp at h
  rw [microStep, doWrite_eq _ hp rfl hc, writeEffect_mcmd_keep (by simp)]
  rfl

theorem microStep_rpData :
    microStep (.rpData :: fs) s = .ok (resume (s.regs.mrdd &&& 0xFFFF#32) fs (readLogged .mrdd s.regs.mrdd s)) := by
  rw [microStep, doRead_eq hp rfl]; rfl

end

theorem mindValue_of_busy {s : State} (hm : s.mii ≠ .idle) : ¬(mindValue s).getLsbD 0 = false := by
  rw [mindValue_busy, (Mii.busy_iff _).2 hm]; decide

/-- A frame that polls MIND, with its number of polls left: while a cycle is in flight it polls again, and after the last poll it
answers −1 (R353, R354). -/
def IsPoll (poll : Nat → OpFrame) : Prop :=
  ∀ (s : State) (fs : List OpFrame), s.powered = true → s.mii ≠ .idle →
    microStep (poll 0 :: fs) s = .ok (resume codeTimeout fs (polled s)) ∧
    ∀ left, microStep (poll (left + 1) :: fs) s = .ok (polled s, .run (poll left :: fs))

theorem isPoll_wpPoll : IsPoll .wpPoll := by
  intro s fs hp hm
  refine ⟨?_, fun left => ?_⟩ <;> rw [microStep, doRead_eq hp rfl] <;> exact if_neg (mindValue_of_busy hm)

theorem isPoll_rpPoll : IsPoll .rpPoll := by
  intro s fs hp hm
  refine ⟨?_, fun left => ?_⟩ <;> rw [microStep, doRead_eq hp rfl] <;> exact if_neg (mindValue_of_busy hm)

/-! ### Results (R355, R356, R601) -/

theorem statusResult_timeout (kind : Word) : statusResult kind codeTimeout = codeTimeout := by
  unfold statusResult; split <;> rfl

/-- The low half of a word is no sentinel. -/
theorem and_low16_ne_timeout (w : Word) : w &&& 0xFFFF#32 ≠ codeTimeout := by
  intro h
  have h31 := congrArg (BitVec.getLsbD · 31) h
  simp [codeTimeout] at h31

theorem and_half (w : Word) (m : Half) : w &&& 0xFFFF#32 &&& m.setWidth 32 = w &&& m.setWidth 32 := by
  rw [BitVec.and_assoc, BitVec.and_comm 0xFFFF#32, setWidth_masked]

/-- Of the data READ_PHY returns the mask of the kind is tested. -/
theorem statusResult_data {kind : Word} {mask : Half} (w : Word) (h : statusMask kind = some mask) :
    statusResult kind (w &&& 0xFFFF#32) = if w &&& mask.setWidth 32 ≠ 0 then 1 else 0 := by
  simp only [statusResult, h, if_neg (and_low16_ne_timeout w), and_half]

theorem setWidth_and_ne_zero_iff (r m : Half) : r.setWidth 32 &&& m.setWidth 32 ≠ 0#32 ↔ r &&& m ≠ 0#16 := by
  rw [← BitVec.setWidth_and, not_iff_not, ← BitVec.toNat_inj, ← BitVec.toNat_inj, BitVec.toNat_setWidth,
    Nat.mod_eq_of_lt (by omega)]
  rfl

theorem detectResult_timeout (id1 : Word) : detectResult id1 codeTimeout = codeUnknownPhy := if_pos (Or.inr rfl)

theorem setWidth_shift_or (x y : Half) : (x.setWidth 32 <<< 16) ||| y.setWidth 32 = x ++ y := by
  refine BitVec.eq_of_toNat_eq ?_
  rw [BitVec.toNat_or, BitVec.toNat_append, BitVec.toNat_shiftLeft, BitVec.toNat_setWidth, BitVec.toNat_setWidth,
    Nat.shiftLeft_eq, Nat.shiftLeft_eq, Nat.mod_eq_of_lt (by omega), Nat.mod_eq_of_lt (by omega), Nat.mod_eq_of_lt (by omega)]

/-- Two words of the PHY are looked up as one (R355). -/
theorem detectResult_data (id1 id2 : Half) : detectResult (id1.setWidth 32) (id2.setWidth 32) =
    if (id1 ++ id2) &&& 0xFFFFFFF0#32 ∈ Config.knownPhyIds then 0 else 0xFFFFFFFD := by
  have hne (x : Half) : x.setWidth 32 ≠ codeTimeout := setWidth_masked x ▸ and_low16_ne_timeout _
  rw [detectResult, if_neg (not_or.2 ⟨hne id1, hne id2⟩), setWidth_shift_or]
  rfl

end Sys2Proof.Machine
end

section
/-!
PROOFS. Single steps of the PHY operations: the first step of each command (spec/42_phy.md R352 to R359), what an operation makes of
a timed-out access (R362), the overlap of R708, and the link wait (R359).
-/

namespace Sys2Proof.Machine

/-! ### Answers of single micro-steps -/

theorem opRun_next {fs : List OpFrame} {s : State} {x : State × Cont} (h : microStep fs s = .ok x) :
    opRun fs s = .next (settle x) := by rw [opRun, h, opAnswer]

theorem opRun_error {fs : List OpFrame} {s : State} {f : Fault} (h : microStep fs s = .error f) : opRun fs s = .fault f := by
  rw [opRun, h, opAnswer]

theorem continueOp_next {fs : List OpFrame} {s : State} {x : State × Cont} (hop : curOp s = fs)
    (h : microStep fs s = .ok x) : continueOp s = .next (settle x) := by
  rw [continueOp, hop, opRun_next h]

theorem continueOp_error {fs : List OpFrame} {s : State} {f : Fault} (hop : curOp s = fs)
    (h : microStep fs s = .error f) : continueOp s = .fault f := by
  rw [continueOp, hop, opRun_error h]

/-- The frames that make the first step of a PHY access. -/
inductive AddressFrame (reg : MiiAddr) : OpFrame → Prop where
  | write (value : Half) : AddressFrame reg (.wpMadr reg value)
  | read : AddressFrame reg (.rpMadr reg)

theorem AddressFrame.microStep_overlap {reg : MiiAddr} {f : OpFrame} {s : State} (hf : AddressFrame reg f) (fs : List OpFrame)
    (hp : s.powered = true) (h : s.mii ≠ .idle ∨ s.phySplit = true) :
    microStep (f :: fs) s = .error (.miiBusyOverlap (s.site (some 0x028))) := by
  cases hf with
  | write value => exact doAddress_overlap reg _ hp h
  | read => exact doAddress_overlap reg _ hp h

/-! ### The first step of each command -/

section
variable (s : State) {reg value : Nat} {mode : Word} {bmcr : Half}

theorem exec_writePhy (hreg : reg < 32) (hvalue : value < 65536) :
    exec (.writePhy reg value) s = opRun (writePhyFrames (BitVec.ofNat 5 reg) (BitVec.ofNat 16 value)) s :=
  if_pos (by simp [isU5, isU16, hreg, hvalue])

theorem exec_readPhy (hreg : reg < 32) : exec (.readPhy reg) s = opRun (readPhyFrames (BitVec.ofNat 5 reg)) s :=
  if_pos (by simp [isU5, hreg])

theorem exec_setMode (h : bmcrValue mode = some bmcr) : exec (.setMode mode) s = opRun (setModeFrames bmcr) s := by
  simp only [exec, execSetMode, h]

theorem exec_setMode_unsupported (h : bmcrValue mode = none) : exec (.setMode mode) s = .next (s.finish codeUnsupportedMode) := by
  simp only [exec, execSetMode, h]

end

section
variable {s : State} (hp : s.powered = true) (hm : s.mii = .idle) (hs : s.phySplit = false) {reg : Nat} (hreg : reg < 32)
  (fs : List OpFrame)
include hp hm hs hreg

theorem opRun_wpMadr (value : Half) :
    opRun (.wpMadr (BitVec.ofNat 5 reg) value :: fs) s = .next (accessStarted reg (.wpMwtd value :: fs) s) := by
  rw [accessStarted_eq hreg, opRun_next (microStep_wpMadr fs hp _ value hm hs)]; rfl

theorem opRun_rpMadr : opRun (.rpMadr (BitVec.ofNat 5 reg) :: fs) s = .next (accessStarted reg (.rpMcmd :: fs) s) := by
  rw [accessStarted_eq hreg, opRun_next (microStep_rpMadr fs hp _ hm hs)]; rfl

end

/-- Settles O32: every PHY command runs the first frame of an access, but for SET_MODE of an unsupported mode. -/
theorem phyCommandsStart : Obligations.PhyCommandsStart := by
  intro s reg value kind mode hreg hvalue
  refine ⟨fun hp hm hs => ?_, fun hmode => ?_, fun hp hover => ?_⟩
  · have write {reg : Nat} (hreg : reg < 32) (fs : List OpFrame) (value : Half) := opRun_wpMadr hp hm hs hreg fs value
    have read {reg : Nat} (hreg : reg < 32) (fs : List OpFrame) := opRun_rpMadr hp hm hs hreg fs
    have zero : 0 < 32 := by decide
    exact ⟨(exec_writePhy s hreg hvalue).trans (write hreg [] _), (exec_readPhy s hreg).trans (read hreg []),
      read (by decide : 2 < 32) [.detect1], read (by decide : 1 < 32) [.checkStatus kind],
      (exec_setMode s rfl).trans (write zero [.setMode] _), (exec_setMode s rfl).trans (write zero [.setMode] _),
      (exec_setMode s rfl).trans (write zero [.setMode] _), (exec_setMode s rfl).trans (write zero [.setMode] _),
      (exec_setMode s rfl).trans (write zero [.setMode] _), read (by decide : 1 < 32) [.checkStatus 0, .updLink _]⟩
  · exact exec_setMode_unsupported s (bmcrValue_eq_none_iff.2 (by omega))
  · have write (reg : MiiAddr) (value : Half) (fs : List OpFrame) :=
      opRun_error ((AddressFrame.write (reg := reg) value).microStep_overlap fs hp hover)
    have read (reg : MiiAddr) (fs : List OpFrame) := opRun_error ((AddressFrame.read (reg := reg)).microStep_overlap fs hp hover)
    refine ⟨(exec_writePhy s hreg hvalue).trans (write _ _ _), (exec_readPhy s hreg).trans (read _ _), read _ _, read _ _,
      fun hmode => ?_, read _ _⟩
    obtain ⟨bmcr, hb⟩ := Option.ne_none_iff_exists'.1 fun hn => bmcrValue_eq_none_iff.1 hn hmode
    exact (exec_setMode s hb).trans (write _ _ _)

/-! ### Timed-out accesses and the overlap -/

section
variable {s : State} {kind d : Word} {left : Nat}

theorem resume_status_timeout (fs : List OpFrame) : resume codeTimeout (.checkStatus kind :: fs) s = resume codeTimeout fs s := by
  rw [resume, statusResult_timeout]

theorem resume_detect2_timeout : resume codeTimeout [.detect2 d] s = (s, .ret codeUnknownPhy) := by
  rw [resume, detectResult_timeout, resume]

end

/-- Settles O36: the last poll of a busy access answers −1, which each operation takes its own way; the first step of an access
checks the split, and its second write starts the cycle. -/
theorem phyFailurePropagation : Obligations.PhyFailurePropagation := by
  refine ⟨fun s kind d left hp hm => ⟨mindValue s, ?_⟩, fun s reg value a fs overlaps hp ha hover => ?_⟩
  · have rp (fs : List OpFrame) (hop : curOp s = .rpPoll 0 :: fs) := continueOp_next hop (isPoll_rpPoll s fs hp hm).1
    have wp (fs : List OpFrame) (hop : curOp s = .wpPoll 0 :: fs) := continueOp_next hop (isPoll_wpPoll s fs hp hm).1
    refine ⟨fun hop => ?_, fun hop => rp _ hop, fun hop => ?_, fun hop => wp _ hop, fun hop => ?_, fun hop => ?_, fun hop => ?_⟩
    · rw [rp _ hop, resume_status_timeout]; rfl
    · rw [rp _ hop, resume_detect2_timeout]; rfl
    · rw [rp _ hop, resume_status_timeout]; rfl
    · rw [rp _ hop, resume_status_timeout]; rfl
    · rw [rp _ hop, resume_status_timeout, resume, if_pos (Or.inr rfl)]; rfl
  · have hsplit : s.phySplit = true ↔ overlaps := by
      rw [phySplit_iff, hover, and_iff_right hp]
    subst ha
    refine ⟨hsplit, fun ho hop => ?_, fun ho hm => ?_, fun hm hres => ⟨fun hop => ?_, fun hop => ?_⟩⟩
    · rcases hop with hop | hop
      · exact continueOp_error hop ((AddressFrame.write value).microStep_overlap fs hp (Or.inr (hsplit.2 ho)))
      · exact continueOp_error hop (AddressFrame.read.microStep_overlap fs hp (Or.inr (hsplit.2 ho)))
    · have hs : s.phySplit = false := Bool.eq_false_iff.2 (hsplit.not.2 ho)
      exact ⟨fun hop => continueOp_next hop (microStep_wpMadr fs hp reg value hm hs),
        fun hop => continueOp_next hop (microStep_rpMadr fs hp reg hm hs)⟩
    · exact continueOp_next hop (microStep_wpMwtd fs hp value hm hres)
    · by_cases hread : s.regs.mcmd.getLsbD 0 = true
      · rw [continueOp_next hop (microStep_rpMcmd_stale fs hp hm hread), if_pos hread, ← hm]; rfl
      · rw [continueOp_next hop (microStep_rpMcmd_start fs hp hm (Bool.eq_false_iff.2 hread) hres), if_neg hread]; rfl

/-! ### The link wait -/

/-- The link status is bit 2 of the basic-status word (R350, R356). -/
theorem and_linkMask_ne_zero_iff (w : Word) : w &&& Config.phyLinkMask.setWidth 32 ≠ 0 ↔ w.getLsbD 2 = true := by
  have hmask : Config.phyLinkMask.setWidth 32 = BitVec.twoPow 32 2 := rfl
  rw [hmask, BitVec.and_twoPow]
  cases w.getLsbD 2 <;> decide

/-- Settles O37: the link poll's result is the link bit; after the delay the number of polls left decides. -/
theorem linkPollDecides : Obligations.LinkPollDecides := by
  intro s left hp
  have result := statusResult_data (kind := 0) s.regs.mrdd rfl
  have poll (hop : curOp s = [.rpData, .checkStatus 0, .updLink left]) := continueOp_next hop (microStep_rpData _ hp)
  refine ⟨fun hop hlink => ?_, fun hop hlink => ?_, fun hop => ?_, fun hop => ?_⟩
  · rw [poll hop, resume, result, if_pos ((and_linkMask_ne_zero_iff _).2 hlink)]; rfl
  · rw [poll hop, resume, result, if_neg ((and_linkMask_ne_zero_iff _).not.2 (Bool.eq_false_iff.1 hlink))]; rfl
  · exact continueOp_next hop rfl
  · exact continueOp_next hop rfl

end Sys2Proof.Machine
end

section
/-!
PROOFS. Whole PHY commands (spec/42_phy.md R353 to R356, spec/46_agents.md R520 to R522): runs of one operation under a schedule, with
the PHY cycles of the history.
-/

namespace Sys2Proof.Machine

/-! ### Runs under a schedule -/

/-- `n` micro-steps of the operation in progress, the other agents doing `env` before each. -/
def scheduleRun (env : State → State) : Nat → State → Outcome
  | 0, s => .next s
  | n + 1, s => andThen (continueOp (env s)) (scheduleRun env n)

/-- The step of the MII agent, then the schedule names the running context. -/
def promptTurn (s : State) : State := passTurn (miiStep (passTurn s))

theorem aloneRun_eq (n : Nat) : aloneRun n = scheduleRun passTurn n := by
  induction n with
  | zero => rfl
  | succ n ih => funext s; rw [aloneRun, ih, scheduleRun]

theorem promptRun_eq (n : Nat) : promptRun n = scheduleRun promptTurn n := by
  induction n with
  | zero => rfl
  | succ n ih => funext s; rw [promptRun, ih, scheduleRun, promptTurn]

/-- The other agents leave the running context where it is. -/
def KeepsContext (env : State → State) : Prop := ∀ s, (env s).irq = s.irq ∧ ∀ fs, env (putOp fs s) = putOp fs (env s)

theorem keepsContext_passTurn : KeepsContext passTurn := fun s => ⟨rfl, fun fs => passTurn_putOp fs s⟩

theorem keepsContext_promptTurn : KeepsContext promptTurn := fun s =>
  ⟨miiStep_irq_eq (passTurn s), fun fs => by rw [promptTurn, passTurn_putOp, miiStep_putOp, passTurn_putOp, promptTurn]⟩

theorem scheduleRun_succ {env : State → State} (henv : KeepsContext env) {n : Nat} {fs : List OpFrame} {c : Cont} {s t : State}
    (hp : s.inProgram) (h : microStep fs (env s) = .ok (t, c)) :
    scheduleRun env (n + 1) (putOp fs s) = scheduleRun env n (settle (t, c)) := by
  obtain ⟨hirq, hput⟩ := henv s
  rw [scheduleRun, hput, continueOp_putOp (inProgram_of_irq hp hirq) h]; rfl

/-! ### What a run can reach -/

/-- `t` is `s` with a history of which `H` holds, at another place in the schedule. -/
def Recorded (s : State) (H : List Event → Prop) (t : State) : Prop :=
  ∃ (h : List Event) (tn : Turn) (n : Nat), H h ∧ t = { s with hist := h, turn := tn, tick := n }

/-- A history whose completed PHY cycles are `es`. -/
def PhyCycles (es : List Event) (h : List Event) : Prop := phyEvents h = es

section
variable {s t : State} {H : List Event → Prop}

theorem Recorded.passTurn (h : Recorded s H t) : Recorded s H (passTurn t) := by
  obtain ⟨h, _, _, hH, rfl⟩ := h
  exact ⟨h, _, _, hH, rfl⟩

/-- A bus read is no PHY cycle. -/
theorem Recorded.readLogged {es : List Event} (h : Recorded s (PhyCycles es) t) (r : Reg) (v : Word) :
    Recorded s (PhyCycles es) (readLogged r v t) := by
  obtain ⟨h, _, _, hH, rfl⟩ := h
  exact ⟨.bus s.agent r.offset .read v :: h, _, _, hH, rfl⟩

theorem Recorded.cycles {hist : List Event} (h : Recorded s (· = hist) t) : Recorded s (PhyCycles (phyEvents hist)) t := by
  obtain ⟨_, tn, n, rfl, rfl⟩ := h
  exact ⟨_, tn, n, rfl, rfl⟩

theorem Recorded.regs (h : Recorded s H t) : t.regs = s.regs := by obtain ⟨_, _, _, _, rfl⟩ := h; rfl

theorem Recorded.powered (h : Recorded s H t) : t.powered = s.powered := by obtain ⟨_, _, _, _, rfl⟩ := h; rfl

theorem Recorded.irq (h : Recorded s H t) : t.irq = s.irq := by obtain ⟨_, _, _, _, rfl⟩ := h; rfl

theorem Recorded.mii (h : Recorded s H t) : t.mii = s.mii := by obtain ⟨_, _, _, _, rfl⟩ := h; rfl

theorem Recorded.phySplit (h : Recorded s H t) : t.phySplit = s.phySplit := by obtain ⟨_, _, _, _, rfl⟩ := h; rfl

theorem Recorded.hist (h : Recorded s H t) : H t.hist := by obtain ⟨_, _, _, hH, rfl⟩ := h; exact hH

end

/-! ### Schedules -/

/-- A schedule that leaves the running context where it is, and the block as it is while no management cycle is in flight. -/
structure QuietSchedule (env : State → State) : Prop where
  context : KeepsContext env
  idle : ∀ {s u : State} {H : List Event → Prop}, s.mii = .idle → Recorded s H u → Recorded s H (env u)

theorem quietSchedule_passTurn : QuietSchedule passTurn := ⟨keepsContext_passTurn, fun _ h => h.passTurn⟩

theorem miiStep_idle {s : State} (h : s.mii = .idle) : miiStep s = s := by
  unfold miiStep
  split
  · rfl
  · rw [h]

theorem quietSchedule_promptTurn : QuietSchedule promptTurn := by
  refine ⟨keepsContext_promptTurn, fun {s u H} hm h => ?_⟩
  rw [promptTurn, miiStep_idle (h.passTurn.mii.trans hm)]
  exact h.passTurn.passTurn

section
variable {s u : State} {phy reg : MiiAddr} {value : Half} (hon : s.powered = true)
include hon

theorem miiStep_write (h : s.mii = .write phy reg value) :
    miiStep s = { s with mii := .idle }.log (.phyWrite phy reg value) := by
  rw [miiStep, if_neg (by simp [hon]), h]

theorem miiStep_read (h : s.mii = .read phy reg) : miiStep s =
    { s with regs := { s.regs with mrdd := (Config.phyRead phy reg s.hist).setWidth 32 }, mii := .idle }.log
      (.phyRead phy reg (Config.phyRead phy reg s.hist)) := by
  rw [miiStep, if_neg (by simp [hon]), h]

/-- A prompt MII agent completes a write cycle before the next micro-step (R520, R522). -/
theorem Recorded.promptTurn_write {es : List Event} (hm : s.mii = .idle)
    (h : Recorded { s with mii := .write phy reg value } (PhyCycles es) u) :
    Recorded s (PhyCycles (.phyWrite phy reg value :: es)) (promptTurn u) := by
  rw [promptTurn, miiStep_write (h.passTurn.powered.trans hon) h.passTurn.mii]
  refine Recorded.passTurn ?_
  obtain ⟨hist, tn, n, rfl, hu⟩ := h.passTurn
  rw [hu, ← hm]
  exact ⟨.phyWrite phy reg value :: hist, tn, n, rfl, rfl⟩

/-- A prompt MII agent completes a read cycle with the oracle's answer (R521, R522). -/
theorem Recorded.promptTurn_read {hist : List Event} (hm : s.mii = .idle)
    (h : Recorded { s with mii := .read phy reg } (· = hist) u) :
    Recorded { s with regs := { s.regs with mrdd := (Config.phyRead phy reg hist).setWidth 32 } }
      (PhyCycles (.phyRead phy reg (Config.phyRead phy reg hist) :: phyEvents hist)) (promptTurn u) := by
  rw [promptTurn, miiStep_read (h.passTurn.powered.trans hon) h.passTurn.mii]
  refine Recorded.passTurn ?_
  obtain ⟨hist, tn, n, rfl, hu⟩ := h.passTurn
  rw [hu, ← hm]
  exact ⟨.phyRead phy reg _ :: hist, tn, n, rfl, rfl⟩

end

/-! ### Triples under a schedule -/

/-- Under `env`, from every state of `P`, the operation standing at `c`, `n` micro-steps reach a state of `Q`, the operation standing
at `c'`. -/
def Leads (env : State → State) (n : Nat) (P : State → Prop) (c c' : Cont) (Q : State → Prop) : Prop :=
  ∀ s, P s → ∃ t, Q t ∧ ∀ k, scheduleRun env (n + k) (settle (s, c)) = scheduleRun env k (settle (t, c'))

theorem Leads.trans {env : State → State} {n m : Nat} {P Q R : State → Prop} {c c' c'' : Cont} (h : Leads env n P c c' Q)
    (h' : Leads env m Q c' c'' R) : Leads env (n + m) P c c'' R := by
  intro s hs
  obtain ⟨t, ht, hrun⟩ := h s hs
  obtain ⟨u, hu, hrun'⟩ := h' t ht
  exact ⟨u, hu, fun k => by rw [Nat.add_assoc, hrun, hrun']⟩

theorem Leads.post {env : State → State} {n : Nat} {P Q Q' : State → Prop} {c c' : Cont} (h : Leads env n P c c' Q)
    (hQ : ∀ t, Q t → Q' t) : Leads env n P c c' Q' := fun s hs => (h s hs).imp fun t ht => ⟨hQ t ht.1, ht.2⟩

theorem leads_step {env : State → State} (henv : KeepsContext env) {P P' Q : State → Prop} {fs : List OpFrame} {c : Cont}
    (hp : ∀ u, P u → u.inProgram) (hP : ∀ u, P u → P' (env u)) (h : ∀ u, P' u → ∃ t, microStep fs u = .ok (t, c) ∧ Q t) :
    Leads env 1 P (.run fs) c Q := by
  intro u hu
  obtain ⟨t, ht, hQ⟩ := h _ (hP u hu)
  exact ⟨t, hQ, fun k => by rw [Nat.add_comm]; exact scheduleRun_succ henv (hp u hu) ht⟩

theorem Leads.endsIn {env : State → State} {n : Nat} {P : State → Prop} {c : Cont} {v : Word} {s u : State}
    {H : List Event → Prop} (h : Leads env n P c (.ret v) (Recorded s H)) (hu : P u) :
    Machine.endsIn (scheduleRun env n (settle (u, c))) s (State.finish v) H := by
  obtain ⟨_, ⟨hist, tn, tick, hH, rfl⟩, hrun⟩ := h u hu
  exact ⟨hist, tn, tick, hrun 0, hH⟩

section
variable {i : Instr} {s : State} {x : State × Cont} (h : exec i s = .next (settle x)) (n : Nat)
include h

theorem aloneCommand_eq : aloneCommand i n s = scheduleRun passTurn n (settle x) := by
  rw [aloneCommand, h, andThen, aloneRun_eq]

theorem promptCommand_eq : promptCommand i n s = scheduleRun promptTurn n (settle x) := by
  rw [promptCommand, h, andThen, promptRun_eq]

end

/-! ### The rules -/

section
variable {env : State → State} {s : State} {H : List Event → Prop} {es : List Event} {fs : List OpFrame} {c : Cont}
  (hp : s.inProgram)
include hp

/-- A micro-step with no management cycle in flight. -/
theorem leads_idle {Q : State → Prop} (henv : QuietSchedule env) (hm : s.mii = .idle)
    (h : ∀ u, Recorded s H u → ∃ t, microStep fs u = .ok (t, c) ∧ Q t) : Leads env 1 (Recorded s H) (.run fs) c Q :=
  leads_step henv.context (fun _ hu => inProgram_of_irq hp hu.irq) (fun _ hu => henv.idle hm hu) h

/-- With no other agent stepping an access polls MIND until its polls are used up. -/
theorem leads_timeout {poll : Nat → OpFrame} (hpoll : IsPoll poll) (hon : s.powered = true) (hm : s.mii ≠ .idle)
    (hk : ∀ t, resume codeTimeout fs t = (t, c)) (left : Nat) :
    Leads passTurn (left + 1) (Recorded s (PhyCycles es)) (.run (poll left :: fs)) c (Recorded s (PhyCycles es)) := by
  have step {c' : Cont} (left : Nat) (h : ∀ u, Recorded s (PhyCycles es) u → microStep (poll left :: fs) u = .ok (polled u, c')) :
      Leads passTurn 1 (Recorded s (PhyCycles es)) (.run (poll left :: fs)) c' (Recorded s (PhyCycles es)) :=
    leads_step keepsContext_passTurn (fun _ hu => inProgram_of_irq hp hu.irq) (fun _ hu => hu.passTurn)
      fun u hu => ⟨_, h u hu, hu.readLogged _ _⟩
  have busy {u : State} (hu : Recorded s (PhyCycles es) u) :=
    hpoll u fs (hu.powered.trans hon) (hu.mii.symm ▸ hm)
  induction left with
  | zero => exact step 0 fun u hu => by rw [(busy hu).1, hk]
  | succ left ih =>
    rw [Nat.add_comm]
    exact (step (left + 1) fun u hu => (busy hu).2 left).trans ih

end

section
variable {env : State → State} {s : State} {hist es : List Event} {fs : List OpFrame} {c : Cont} {phy reg : MiiAddr}
  (hp : s.inProgram) (hon : s.powered = true) (hm : s.mii = .idle)
include hp hon hm

/-- The MWTD write starts a write cycle to the address in MADR. -/
theorem leads_wpMwtd (henv : QuietSchedule env) (value : Half) (hres : s.regs.mcfg.getLsbD 15 = false)
    (hphy : s.regs.madr.extractLsb' 8 5 = phy) (hreg : s.regs.madr.extractLsb' 0 5 = reg) :
    Leads env 1 (Recorded s (PhyCycles es)) (.run (.wpMwtd value :: fs)) (.run (.wpPoll (Config.miiRetries - 1) :: fs))
      (Recorded { s with mii := .write phy reg value } (PhyCycles es)) := by
  subst hphy hreg
  refine leads_idle hp henv hm fun u hu =>
    ⟨_, microStep_wpMwtd fs (hu.powered.trans hon) value (hu.mii.trans hm) (hu.regs.symm ▸ hres), ?_⟩
  obtain ⟨h, tn, n, hh, rfl⟩ := hu
  exact ⟨.bus s.agent 0x02C .write (value.setWidth 32) :: h, tn, n, hh, rfl⟩

/-- The poll that follows a prompt write cycle ends the access. -/
theorem leads_wpPoll_prompt (value : Half) (left : Nat) (hk : ∀ t, resume 0 fs t = (t, c)) :
    Leads promptTurn 1 (Recorded { s with mii := .write phy reg value } (PhyCycles es)) (.run (.wpPoll left :: fs)) c
      (Recorded s (PhyCycles (.phyWrite phy reg value :: es))) :=
  leads_step keepsContext_promptTurn (fun _ hu => inProgram_of_irq hp hu.irq) (fun _ hu => hu.promptTurn_write hon hm)
    fun u hu => ⟨polled u, by rw [microStep_wpPoll_idle fs (hu.powered.trans hon) left (hu.mii.trans hm), hk], hu.readLogged _ _⟩

/-- The MCMD write starts a read cycle from the address in MADR. -/
theorem leads_rpMcmd (henv : QuietSchedule env) (hread : s.regs.mcmd.getLsbD 0 = false) (hres : s.regs.mcfg.getLsbD 15 = false)
    (hphy : s.regs.madr.extractLsb' 8 5 = phy) (hreg : s.regs.madr.extractLsb' 0 5 = reg) :
    Leads env 1 (Recorded s (· = hist)) (.run (.rpMcmd :: fs)) (.run (.rpPoll (Config.miiRetries - 1) :: fs))
      (Recorded { s with regs := { s.regs with mcmd := 1 }, mii := .read phy reg } (· = .bus s.agent 0x024 .write 1 :: hist)) := by
  subst hphy hreg
  refine leads_idle hp henv hm fun u hu => ⟨_, microStep_rpMcmd_start fs (hu.powered.trans hon) (hu.mii.trans hm)
    (hu.regs.symm ▸ hread) (hu.regs.symm ▸ hres), ?_⟩
  obtain ⟨h, tn, n, hh, rfl⟩ := hu
  exact ⟨.bus s.agent 0x024 .write 1 :: h, tn, n, congrArg (List.cons _) hh, rfl⟩

/-- With MCMD.READ 1 already it starts none (R707). -/
theorem leads_rpMcmd_stale (henv : QuietSchedule env) (hread : s.regs.mcmd.getLsbD 0 = true) :
    Leads env 1 (Recorded s (PhyCycles es)) (.run (.rpMcmd :: fs)) (.run (.rpPoll (Config.miiRetries - 1) :: fs))
      (Recorded { s with regs := { s.regs with mcmd := 1 } } (PhyCycles es)) := by
  refine leads_idle hp henv hm fun u hu =>
    ⟨_, microStep_rpMcmd_stale fs (hu.powered.trans hon) (hu.mii.trans hm) (hu.regs.symm ▸ hread), ?_⟩
  obtain ⟨h, tn, n, hh, rfl⟩ := hu
  exact ⟨.bus s.agent 0x024 .write 1 :: h, tn, n, hh, rfl⟩

theorem leads_rpPoll (henv : QuietSchedule env) (left : Nat) :
    Leads env 1 (Recorded s (PhyCycles es)) (.run (.rpPoll left :: fs)) (.run (.rpClear :: fs)) (Recorded s (PhyCycles es)) :=
  leads_idle hp henv hm fun _ hu =>
    ⟨_, microStep_rpPoll_idle fs (hu.powered.trans hon) left (hu.mii.trans hm), hu.readLogged _ _⟩

/-- The poll that follows a prompt read cycle shows its end, the answer being in MRDD. -/
theorem leads_rpPoll_prompt (left : Nat) :
    Leads promptTurn 1 (Recorded { s with mii := .read phy reg } (· = hist)) (.run (.rpPoll left :: fs)) (.run (.rpClear :: fs))
      (Recorded { s with regs := { s.regs with mrdd := (Config.phyRead phy reg hist).setWidth 32 } }
        (PhyCycles (.phyRead phy reg (Config.phyRead phy reg hist) :: phyEvents hist))) :=
  leads_step keepsContext_promptTurn (fun _ hu => inProgram_of_irq hp hu.irq) (fun _ hu => hu.promptTurn_read hon hm)
    fun _ hu => ⟨_, microStep_rpPoll_idle fs (hu.powered.trans hon) left (hu.mii.trans hm), hu.readLogged _ _⟩

/-- The end of a read access: MCMD is cleared and MRDD read. -/
theorem leads_rpClear (henv : QuietSchedule env) (hk : ∀ t, resume (s.regs.mrdd &&& 0xFFFF#32) fs t = (t, c)) :
    Leads env 2 (Recorded s (PhyCycles es)) (.run (.rpClear :: fs)) c
      (Recorded { s with regs := { s.regs with mcmd := 0 } } (PhyCycles es)) := by
  have clear : Leads env 1 (Recorded s (PhyCycles es)) (.run (.rpClear :: fs)) (.run (.rpData :: fs))
      (Recorded { s with regs := { s.regs with mcmd := 0 } } (PhyCycles es)) := by
    refine leads_idle hp henv hm fun u hu => ⟨_, microStep_rpClear fs (hu.powered.trans hon) (hu.mii.trans hm), ?_⟩
    obtain ⟨h, tn, n, hh, rfl⟩ := hu
    exact ⟨.bus s.agent 0x024 .write 0 :: h, tn, n, hh, rfl⟩
  exact clear.trans (leads_idle (s := { s with regs := { s.regs with mcmd := 0 } }) hp henv hm fun u hu =>
    ⟨_, by rw [microStep_rpData fs (hu.powered.trans hon), hu.regs, hk], hu.readLogged _ _⟩)

end

/-! ### Whole accesses -/

/-- The block with MADR addressing PHY register `reg`. -/
def atAddress (reg : MiiAddr) (s : State) : State := { s with regs := addressRegs reg.toNat s }

/-- The history after the MADR write. -/
def addressHistory (reg : MiiAddr) (s : State) : List Event :=
  .bus s.agent 0x028 .write (BitVec.ofNat 32 (256 + reg.toNat)) :: s.hist

theorem recorded_addressed {H : List Event → Prop} (reg : MiiAddr) (s : State) (h : H (addressHistory reg s)) :
    Recorded (atAddress reg s) H (addressed reg s) := ⟨addressHistory reg s, s.turn, s.tick, h, rfl⟩

/-- The block after a prompt access that read `v` from PHY register `reg` (R354, R521). -/
def phyReadDone (reg : MiiAddr) (v : Half) (s : State) : State :=
  { s with regs := { s.regs with madr := BitVec.ofNat 32 (256 + reg.toNat), mrdd := v.setWidth 32, mcmd := 0 } }

section
variable {s : State} {fs : List OpFrame} {c : Cont} {reg : MiiAddr} {v : Half}
  (hp : s.inProgram) (hon : s.powered = true) (hm : s.mii = .idle) (hres : s.regs.mcfg.getLsbD 15 = false)
  (hread : s.regs.mcmd.getLsbD 0 = false)
include hp hon hm hres hread

/-- A read access with a prompt cycle, from its MCMD write on. -/
theorem leads_readPhy_prompt (hv : v = Config.phyRead 1 reg (readHistory reg.toNat s))
    (hk : ∀ t, resume (v.setWidth 32) fs t = (t, c)) :
    Leads promptTurn 4 (· = addressed reg s) (.run (.rpMcmd :: fs)) c
      (Recorded (phyReadDone reg v s) (PhyCycles (.phyRead 1 reg v :: phyEvents s.hist))) := by
  subst hv
  obtain ⟨hphy, hreg⟩ := madr_fields reg
  have hk' := hk
  rw [← setWidth_masked] at hk'
  have start := leads_rpMcmd (s := atAddress reg s) (hist := addressHistory reg s) (fs := fs) hp hon hm quietSchedule_promptTurn
    hread hres hphy hreg
  have poll := leads_rpPoll_prompt (s := { s with regs := { addressRegs reg.toNat s with mcmd := 1 } }) (fs := fs)
    (hist := readHistory reg.toNat s) (phy := 1) (reg := reg) hp hon hm (Config.miiRetries - 1)
  have clear := leads_rpClear (s := { s with regs := { addressRegs reg.toNat s with
    mcmd := 1, mrdd := (Config.phyRead 1 reg (readHistory reg.toNat s)).setWidth 32 } })
    (es := .phyRead 1 reg (Config.phyRead 1 reg (readHistory reg.toNat s)) :: phyEvents s.hist)
    hp hon hm quietSchedule_promptTurn hk'
  rintro _ rfl
  exact (start.trans (poll.trans clear)) _ (recorded_addressed reg s rfl)

/-- A read access with a prompt cycle inside an operation, its answer being the oracle's at a history with the PHY cycles `es`. -/
theorem readPhy_prompt_inside {t : State} {es : List Event} {g : Half → Cont} (hs : s.phySplit = false)
    (ht : Recorded s (PhyCycles es) t) (hk : ∀ (v : Half) (t : State), resume (v.setWidth 32) fs t = (t, g v)) :
    ∃ (h : List Event) (v : Half) (t' : State), phyEvents h = es ∧ v = Config.phyRead 1 reg h ∧
      Recorded (phyReadDone reg v s) (PhyCycles (.phyRead 1 reg v :: es)) t' ∧
      ∀ k, scheduleRun promptTurn (5 + k) (settle (t, .run (.rpMadr reg :: fs))) = scheduleRun promptTurn k (settle (t', g v)) := by
  have hu := quietSchedule_promptTurn.idle hm ht
  have hu_on := hu.powered.trans hon
  have hu_idle := hu.mii.trans hm
  have address := microStep_rpMadr fs hu_on reg hu_idle (hu.phySplit.trans hs)
  obtain ⟨t', ht', hrun⟩ := leads_readPhy_prompt (inProgram_of_irq hp hu.irq) hu_on hu_idle (hu.regs.symm ▸ hres)
    (hu.regs.symm ▸ hread) rfl (hk _) (addressed reg (promptTurn t)) rfl
  refine ⟨readHistory reg.toNat (promptTurn t), _, t', hu.hist, rfl, ?_, fun k => ?_⟩
  · obtain ⟨h, tn, n, hh, hu⟩ := hu
    obtain ⟨h', tn', n', hh', rfl⟩ := ht'
    rw [hu] at hh' ⊢
    exact ⟨h', tn', n', hh'.trans (congrArg (List.cons _) hh), rfl⟩
  · rw [show 5 + k = 4 + k + 1 by omega]
    exact (scheduleRun_succ keepsContext_promptTurn (inProgram_of_irq hp ht.irq) address).trans (hrun k)

end

/-- A command alone whose second step faults. -/
theorem aloneCommand_error {i : Instr} {s u : State} {fs : List OpFrame} {f : FaultSite → Fault} {a : Option Nat}
    (hi : exec i s = .next (settle (u, .run fs))) (hp : u.inProgram)
    (h : ∀ t, t.regs = u.regs → t.powered = u.powered → t.mii = u.mii → microStep fs t = .error (f (t.site a))) :
    ∃ site : FaultSite, aloneCommand i 1 s = .fault (f site) ∧ site.addr = a := by
  have hop : curOp (passTurn (putOp fs u)) = fs := curOp_putOp hp fs
  have herr := h (passTurn (putOp fs u)) (putOp_regs fs u) (putOp_powered fs u) (putOp_mii fs u)
  refine ⟨(passTurn (putOp fs u)).site a, ?_, rfl⟩
  rw [aloneCommand_eq hi, scheduleRun, settle, continueOp_error hop herr, andThen]

/-! ### The obligations -/

/-- A number below 32 is an MII address. -/
theorem exists_miiAddr {reg : Nat} (h : reg < 32) : ∃ a : MiiAddr, a.toNat = reg ∧ BitVec.ofNat 5 reg = a :=
  ⟨BitVec.ofNat 5 reg, by rw [BitVec.toNat_ofNat, Nat.mod_eq_of_lt h], rfl⟩

/-- Settles O33: the write of MWTD starts the cycle or faults; the polls see it completed or run out. -/
theorem phyWriteCompletesOrTimesOut : Obligations.PhyWriteCompletesOrTimesOut := by
  intro s reg value hreg hvalue hp hon hm hs
  have hexec := exec_writePhy s hreg hvalue
  obtain ⟨a, rfl, ha⟩ := exists_miiAddr hreg
  rw [ha] at hexec ⊢
  obtain ⟨hphy, hregf⟩ := madr_fields a
  have hi := hexec.trans (opRun_next (microStep_wpMadr [] hon a (BitVec.ofNat 16 value) hm hs))
  have start {env : State → State} (henv : QuietSchedule env) (hres : s.regs.mcfg.getLsbD 15 = false) :=
    leads_wpMwtd (s := atAddress a s) (es := phyEvents s.hist) (fs := []) hp hon hm henv
      (BitVec.ofNat 16 value) hres hphy hregf
  refine ⟨fun hres => ⟨?_, ?_⟩, fun hres => ?_⟩
  · have poll := leads_wpPoll_prompt (s := atAddress a s) (es := phyEvents s.hist) (fs := []) (phy := 1) (reg := a) hp hon hm
      (BitVec.ofNat 16 value) (Config.miiRetries - 1) fun t => rfl
    rw [promptCommand_eq hi]
    exact ((start quietSchedule_promptTurn hres).trans poll).endsIn (recorded_addressed a s rfl)
  · have polls := leads_timeout (s := { atAddress a s with mii := .write 1 a (BitVec.ofNat 16 value) })
      (es := phyEvents s.hist) (fs := []) hp isPoll_wpPoll hon Mii.noConfusion (fun t => rfl) (Config.miiRetries - 1)
    rw [aloneCommand_eq hi]
    exact ((start quietSchedule_passTurn hres).trans polls).endsIn (recorded_addressed a s rfl)
  · exact aloneCommand_error hi hp fun t hr hpow hmii =>
      microStep_wpMwtd_inReset [] (hpow.trans hon) _ (hmii.trans hm) (hr ▸ hres)

/-- Settles O34: the write of MCMD starts the cycle, starts none, or faults; the polls see it completed or run out. -/
theorem phyReadCompletesOrTimesOut : Obligations.PhyReadCompletesOrTimesOut := by
  intro s reg v hreg hp hon hm hs hv
  have hexec := exec_readPhy s hreg
  obtain ⟨a, rfl, ha⟩ := exists_miiAddr hreg
  rw [ha] at hexec hv ⊢
  obtain ⟨hphy, hregf⟩ := madr_fields a
  have hi := hexec.trans (opRun_next (microStep_rpMadr [] hon a hm hs))
  refine ⟨fun hres hread => ⟨?_, ?_⟩, fun hread => ?_, fun hres hread => ?_⟩
  · rw [promptCommand_eq hi]
    exact (leads_readPhy_prompt hp hon hm hres hread hv fun t => rfl).endsIn rfl
  · have start := leads_rpMcmd (s := atAddress a s) (hist := addressHistory a s) (fs := []) hp hon hm quietSchedule_passTurn
      hread hres hphy hregf
    have polls := leads_timeout
      (s := { atAddress a s with regs := { addressRegs a.toNat s with mcmd := 1 }, mii := .read 1 a })
      (es := phyEvents s.hist) (fs := []) hp isPoll_rpPoll hon Mii.noConfusion (fun t => rfl) (Config.miiRetries - 1)
    rw [aloneCommand_eq hi]
    exact ((start.post fun _ ht => ht.cycles).trans polls).endsIn (recorded_addressed a s rfl)
  · have start := leads_rpMcmd_stale (s := atAddress a s) (es := phyEvents s.hist) (fs := []) hp hon hm quietSchedule_passTurn hread
    have poll := leads_rpPoll (s := { atAddress a s with regs := { addressRegs a.toNat s with mcmd := 1 } })
      (es := phyEvents s.hist) (fs := []) hp hon hm quietSchedule_passTurn (Config.miiRetries - 1)
    have clear := leads_rpClear (s := { atAddress a s with regs := { addressRegs a.toNat s with mcmd := 1 } })
      (es := phyEvents s.hist) (fs := []) hp hon hm quietSchedule_passTurn fun t => rfl
    rw [aloneCommand_eq hi]
    exact (start.trans (poll.trans clear)).endsIn (recorded_addressed a s rfl)
  · exact aloneCommand_error hi hp fun t hr hpow hmii =>
      microStep_rpMcmd_inReset [] (hpow.trans hon) (hmii.trans hm) (hr ▸ hread) (hr ▸ hres)

/-- CHECK_STATUS's result from the word it read, for every kind. -/
theorem statusResult_read (kind : Word) (r : Half) : statusResult kind (r.setWidth 32) =
    if kind = 0 then (if r &&& 0x0004 ≠ 0 then 1 else 0)
    else if kind = 1 then (if r &&& Config.phySpeed100Mask ≠ 0 then 1 else 0)
    else if kind = 2 then (if r &&& Config.phyFullDupMask ≠ 0 then 1 else 0)
    else 0xFFFFFFFF := by
  have known {kind : Word} {mask : Half} (h : statusMask kind = some mask) :
      statusResult kind (r.setWidth 32) = if r &&& mask ≠ 0 then 1 else 0 := by
    rw [← setWidth_masked, statusResult_data _ h]
    exact if_congr (setWidth_and_ne_zero_iff r mask) rfl rfl
  by_cases h0 : kind = 0
  · rw [if_pos h0, h0, known rfl]; rfl
  by_cases h1 : kind = 1
  · rw [if_neg h0, if_pos h1, h1, known rfl]
  by_cases h2 : kind = 2
  · rw [if_neg h0, if_neg h1, if_pos h2, h2, known rfl]
  have hnone : statusMask kind = none := by
    rw [← BitVec.toNat_inj] at h0 h1 h2
    unfold statusMask
    split <;> simp_all
  rw [if_neg h0, if_neg h1, if_neg h2, statusResult, hnone]; rfl

/-- Settles O35: one read access answers the status word; DETECT_PHY makes two, the second from the state the first leaves. -/
theorem statusAndIdentityResults : Obligations.StatusAndIdentityResults := by
  intro s hp hon hm hres hread hs
  refine ⟨fun kind r hr => ?_, ?_⟩
  · have hi := opRun_next (microStep_rpMadr [.checkStatus kind] hon 1 hm hs)
    have access := leads_readPhy_prompt (fs := [.checkStatus kind]) hp hon hm hres hread hr fun t => rfl
    rw [← statusResult_read, promptCommand_eq (i := .checkStatus kind) hi]
    exact access.endsIn rfl
  · have hi := opRun_next (microStep_rpMadr [.detect1] hon 2 hm hs)
    obtain ⟨id1, hid1⟩ : ∃ v, v = Config.phyRead 1 2 (readHistory 2 s) := ⟨_, rfl⟩
    obtain ⟨t, ht, first⟩ := leads_readPhy_prompt (fs := [.detect1]) hp hon hm hres hread hid1 (fun t => rfl) _ rfl
    obtain ⟨h2, id2, t', hh2, hid2, ht', second⟩ := readPhy_prompt_inside (s := phyReadDone 2 id1 s) (reg := 3)
      (fs := [.detect2 (id1.setWidth 32)]) hp hon hm hres BitVec.getLsbD_zero hs ht
      fun v t => rfl
    refine ⟨id1, id2, readHistory 2 s, h2, rfl, hid1, hh2, hid2, ?_⟩
    rw [← detectResult_data, promptCommand_eq (i := .detectPhy) hi]
    obtain ⟨h, tn, n, hh, rfl⟩ := ht'
    exact ⟨h, tn, n, (first 5).trans (second 0), hh⟩

end Sys2Proof.Machine
end

section
/-!
PROOFS. The end of UPDATE_STATUS: MAC_CONFIGURE from the last status read (spec/42_phy.md R359, R361).
-/

namespace Sys2Proof.Machine

/-! ### Setting and clearing bits of a register -/

/-- The bits `m` of `w`, set or cleared. -/
def putBits (on : Bool) (m w : Word) : Word := if on then w ||| m else w &&& ~~~m

/-- The read step that sets or clears the bits `m` of register `r` (R165). -/
def Micro.putBits (on : Bool) (r : Reg) (m : Word) : Micro := if on then .setBits r m else .clrBits r m

theorem putBits_masked (on : Bool) {m w k : Word} (hm : m &&& k = m) (hw : w &&& k = w) :
    putBits on m w &&& k = putBits on m w := by
  cases on
  · change w &&& ~~~m &&& k = w &&& ~~~m
    rw [BitVec.and_assoc, BitVec.and_comm (~~~m), ← BitVec.and_assoc, hw]
  · exact or_masked hw hm

/-- MAC_CONFIGURE's micro-steps for either duplex. -/
theorem macConfigure_eq (full fast : Bool) : macConfigure full fast =
    [.putBits full .mac2 0x0001, .putBits full .command 0x0400, .write .ipgt (if full then 0x15 else 0x12),
      .write .supp (if fast then 0x0100 else 0x0000)] := by
  cases full <;> rfl

/-- The whole word of Command read as its stored bits resets nothing (R220). -/
theorem writeEffect_command_plain {v : Word} (s : State) (hv : v &&& 0x000007C3 = v) :
    writeEffect .command v s = { s with regs := { s.regs with command := v } } := by
  have low (i : Nat) (hi : (0x000007C3 : Word).getLsbD i = false) : v.getLsbD i = false := by
    rw [← hv, BitVec.getLsbD_and, hi, Bool.and_false]
  have h3 := low 3 rfl
  have h4 := low 4 rfl
  have h5 := low 5 rfl
  simp only [writeEffect, writeRegs, commandRegs, writeMii, endsFrame, h3, h4, h5, hv, Bool.or_self, Bool.false_eq_true, if_false]

theorem Reached.setLink {s t : State} {M : Memory → Prop} (h : Reached s M t) (l : Link) :
    Reached { s with link := l } M { t with link := l } := by
  obtain ⟨m, _, _, _, hm, rfl⟩ := h
  exact ⟨m, _, _, _, hm, rfl⟩

section
variable {s : State} {M : Memory → Prop} {fs : List OpFrame} (hp : s.inProgram) (hon : s.powered = true)
include hp hon

theorem runs_putBits (on : Bool) {r : Reg} {m v : Word} {ms : List Micro} (hr : regWriteOnly r = false) (hm : r ≠ .mind)
    (hs : r ≠ .status) (hv : putBits on m (readReg r s) = v) : Runs 1 (Reached s M) (.run (.seq (.putBits on r m :: ms) :: fs))
      (.run (.seq (.write r v :: ms) :: fs)) (Reached s M) := by
  subst hv
  cases on <;> exact runs_read hp hon hr hm hs (fun _ => rfl) fun _ => rfl

variable {x : Micro} {ms : List Micro} (full fast : Bool)

/-- The duplex bit of MAC2, with more to do after it. -/
theorem runs_duplexMac2 (hmac2 : s.regs.mac2 &&& 0x000073FF = s.regs.mac2) :
    Runs 2 (Reached s M) (.run (.seq (.putBits full .mac2 0x0001 :: x :: ms) :: fs)) (.run (.seq (x :: ms) :: fs))
      (Reached { s with regs := { s.regs with mac2 := putBits full 0x0001 s.regs.mac2 } } M) := by
  have read := runs_putBits (M := M) (fs := fs) (ms := x :: ms) hp hon full (r := .mac2) (m := 0x0001) rfl nofun nofun rfl
  have hw := congrArg (fun w => { s.regs with mac2 := w }) (putBits_masked full (m := 0x0001) rfl hmac2)
  exact read.trans (runs_write hp hon rfl rfl nofun nofun nofun hw fun u hu => ⟨u, rfl, hu⟩)

/-- The duplex bit of Command: the write resets nothing. -/
theorem runs_duplexCommand (hcmd : s.regs.command &&& 0x000007C3 = s.regs.command) :
    Runs 2 (Reached s M) (.run (.seq (.putBits full .command 0x0400 :: x :: ms) :: fs)) (.run (.seq (x :: ms) :: fs))
      (Reached { s with regs := { s.regs with command := putBits full 0x0400 s.regs.command } } M) := by
  have read := runs_putBits (M := M) (fs := fs) (ms := x :: ms) hp hon full (r := .command) (m := 0x0400) rfl nofun nofun rfl
  refine read.trans (runs_step hp fun u hu => ?_)
  have hbus := busWrite_eq (r := .command) (v := putBits full 0x0400 s.regs.command) (hu.powered.trans hon) rfl rfl
  rw [writeEffect_command_plain u (putBits_masked full rfl hcmd), hu.regs] at hbus
  refine ⟨_, ?_, (hu.setRegs _).log (.bus u.agent Reg.command.offset .write (putBits full 0x0400 s.regs.command))⟩
  simp only [microStep, seqStep, doWrite, readReg, hbus, seqRest]

/-- The gap of the duplex, the RMII speed, and the link up. -/
theorem runs_gapAndSpeed : Runs 2 (Reached s M)
    (.run [.seq [.write .ipgt (if full then 0x15 else 0x12), .write .supp (if fast then 0x0100 else 0x0000)], .linkUp]) (.ret 0)
    (Reached { s with
      regs := { s.regs with ipgt := if full then 0x15 else 0x12, supp := if fast then 0x0100 else 0x0000 }
      link := .up } M) := by
  have hipgt : writeRegs .ipgt (if full then 0x15 else 0x12) s.regs = { s.regs with ipgt := if full then 0x15 else 0x12 } := by
    cases full <;> rfl
  have hsupp (r : Regs) : writeRegs .supp (if fast then 0x0100 else 0x0000) r =
      { r with supp := if fast then 0x0100 else 0x0000 } := by cases fast <;> rfl
  have supp := runs_write (r := .supp) (s := { s with regs := { s.regs with ipgt := if full then 0x15 else 0x12 } }) (M := M)
    (ms := []) (fs := [.linkUp]) (c := .ret 0) hp hon rfl rfl nofun nofun nofun (hsupp _)
    fun u hu => ⟨{ u with link := .up }, rfl, hu.setLink .up⟩
  exact runs_writeThen hp hon rfl rfl nofun nofun nofun hipgt supp

end

/-! ### MAC_CONFIGURE -/

/-- The registers MAC_CONFIGURE leaves (R361). -/
def configured (full fast : Bool) (r : Regs) : Regs := { r with
  mac2 := putBits full 0x0001 r.mac2
  command := putBits full 0x0400 r.command
  ipgt := if full then 0x15 else 0x12
  supp := if fast then 0x0100 else 0x0000 }

theorem runs_macConfigure {s : State} {M : Memory → Prop} (hp : s.inProgram) (hon : s.powered = true)
    (hres : s.regs.reservedZero) (full fast : Bool) : Runs 6 (Reached s M) (.run [.seq (macConfigure full fast), .linkUp]) (.ret 0)
      (Reached { s with regs := configured full fast s.regs, link := .up } M) := by
  obtain ⟨-, hmac2, -, -, -, -, -, -, -, -, -, -, -, -, hcmd, -⟩ := hres
  rw [and_not_eq_zero_iff] at hmac2 hcmd
  rw [macConfigure_eq]
  have command := runs_duplexCommand (s := { s with regs := { s.regs with mac2 := putBits full 0x0001 s.regs.mac2 } }) (M := M)
    (fs := [.linkUp]) (x := .write .ipgt (if full then 0x15 else 0x12)) (ms := [.write .supp (if fast then 0x0100 else 0x0000)])
    hp hon full hcmd
  have gap := runs_gapAndSpeed (s := { s with regs := { s.regs with
    mac2 := putBits full 0x0001 s.regs.mac2, command := putBits full 0x0400 s.regs.command } }) (M := M) hp hon full fast
  exact (runs_duplexMac2 hp hon full hmac2).trans (command.trans gap)

/-- The last status read's result is the speed (R356, R359). -/
theorem resume_speed {w d : Word} (hd : d ≠ codeTimeout) (s : State) :
    resume (w &&& 0xFFFF#32) [.checkStatus 1, .updSpeed d] s =
      (s, .run [.seq (macConfigure (d == 1) (decide (w &&& Config.phySpeed100Mask.setWidth 32 ≠ 0))), .linkUp]) := by
  rw [resume, statusResult_data w rfl]
  by_cases h : w &&& Config.phySpeed100Mask.setWidth 32 ≠ 0
  · rw [if_pos h, decide_eq_true h, resume, if_neg (not_or.2 ⟨hd, by decide⟩)]; rfl
  · rw [if_neg h, decide_eq_false h, resume, if_neg (not_or.2 ⟨hd, by decide⟩)]; rfl

theorem putOp_curOp {s : State} (h : s.inProgram) : putOp (curOp s) s = s := by
  rcases inProgram_cases h with hi | ⟨st, n, id, pc, op, hi⟩
  · simp only [curOp, putOp, hi]
    rw [← hi]
  · simp only [curOp, putOp, hi, State.setIrq]
    rw [← hi]

/-- The duplex read having timed out, the speed does not matter (R359). -/
theorem resume_duplex_timeout (v : Word) (s : State) :
    resume v [.checkStatus 1, .updSpeed codeTimeout] s = (s, .ret codeTimeout) := by
  rw [resume, resume, if_pos (Or.inl rfl)]; rfl

/-- Settles O38: the last read answers the speed, and MAC_CONFIGURE's writes pass the registers' masks. -/
theorem statusConfiguresMac : Obligations.StatusConfiguresMac := by
  refine ⟨fun s hon hop => ?_, fun s full hp hon hres hop => ?_⟩
  · rw [continueOp_next hop (microStep_rpData _ hon)]
    exact congrArg (fun x => Host.Outcome.next (settle x)) (resume_duplex_timeout _ _)
  · have hd : (if full then 1 else 0 : Word) ≠ codeTimeout := by cases full <;> decide
    have hfull : ((if full then 1 else 0 : Word) == 1) = full := by cases full <;> rfl
    have read := runs_read (M := (· = s.mem)) (r := .mrdd)
      (fs := [.rpData, .checkStatus 1, .updSpeed (if full then 1 else 0)]) hp hon rfl nofun nofun (fun _ => rfl)
      fun u => congrArg Except.ok (resume_speed (w := s.regs.mrdd) hd u)
    rw [hfull] at read
    have hrun := read.trans (runs_macConfigure hp hon hres full _)
    obtain ⟨_, ⟨_, hist, tn, tick, rfl, rfl⟩, hrun⟩ := hrun s (Reached.self rfl)
    refine ⟨hist, tn, tick, ?_, trivial⟩
    have hstart : settle (s, .run [.rpData, .checkStatus 1, .updSpeed (if full then 1 else 0)]) = s := hop ▸ putOp_curOp hp
    have hend := hrun 0
    rw [hstart] at hend
    refine hend.trans (congrArg Host.Outcome.next ?_)
    simp only [configured, decide_eq_true_eq]
    rfl

end Sys2Proof.Machine
end

section
/-!
PROOFS. The state machine of the MAC engine (spec/43_mac.md R401): only the frames of INIT and DEINIT that await a result move `drv`,
each by its row of R401's table; every other micro-step and command leaves the stage of an INIT in progress as it is.
-/

namespace Sys2Proof.Machine

/-! ### The frames that leave `drv` -/

/-- A frame that leaves `drv` whatever result it takes: none of those with which INIT and DEINIT await one (R400, R404). -/
def quietFrame : OpFrame → Bool
  | .initWritten _ _ | .initPoll _ _ _ | .initDetected _ _ | .initMode _ | .initRing | .initEnd _ | .deinitDone => false
  | _ => true

theorem quietFrame_of_bodyFrame {f : OpFrame} (h : bodyFrame f = true) : quietFrame f = true := by
  cases f
  case initWritten | initPoll | initDetected | initMode | initRing | initEnd | deinitDone => cases h
  all_goals rfl

/-- At the frames `gs` an operation is in the same stage of INIT as at `fs`, and is one of a callback body where it was. -/
structure SameStage (fs gs : List OpFrame) : Prop where
  shape : initShape gs = initShape fs
  stage : initStage gs = initStage fs
  body : fs.all bodyFrame = true → gs.all bodyFrame = true

theorem SameStage.refl (fs : List OpFrame) : SameStage fs fs := ⟨rfl, rfl, id⟩

/-- A quiet frame on top has no part in the stage. -/
theorem SameStage.under {f : OpFrame} {fs gs : List OpFrame} (hf : quietFrame f = true) (h : SameStage fs gs) :
    SameStage (f :: fs) gs := by
  have hsame : initShape (f :: fs) = initShape fs ∧ initStage (f :: fs) = initStage fs := by
    cases f
    case initWritten | initPoll | initDetected | initMode | initRing | initEnd | deinitDone => cases hf
    all_goals exact ⟨rfl, rfl⟩
  refine ⟨h.shape.trans hsame.1.symm, h.stage.trans hsame.2.symm, fun hb => h.body ?_⟩
  rw [List.all_cons, Bool.and_eq_true] at hb
  exact hb.2

/-- How an operation at the frames `fs` goes on: it is still in its stage, `drv` as in `s`; or a result has come down to a frame that
is not quiet, or to its end, and `drv` has not changed on the way. -/
inductive HandsOn (fs : List OpFrame) (s : State) : State × Cont → Prop where
  | run {u : State} {gs : List OpFrame} : u.drv = s.drv → SameStage fs gs → HandsOn fs s (u, .run gs)
  | result {u : State} {gs : List OpFrame} (v : Word) : u.drv = s.drv → SameStage fs gs → gs <:+ fs →
      (∀ f ∈ gs.head?, quietFrame f = false) → HandsOn fs s (resume v gs u)

theorem HandsOn.under {f : OpFrame} {fs : List OpFrame} {s u : State} {x : State × Cont} (h : HandsOn fs u x)
    (hf : quietFrame f = true) (hu : u.drv = s.drv) : HandsOn (f :: fs) s x := by
  cases h with
  | run hd hg => exact .run (hd.trans hu) (hg.under hf)
  | result v hd hg hs hh => exact .result v (hd.trans hu) (hg.under hf) (hs.trans (List.suffix_cons f fs)) hh

theorem resume_handsOn (v : Word) (fs : List OpFrame) (s : State) : HandsOn fs s (resume v fs s) := by
  induction fs generalizing v s with
  | nil => exact .result v rfl (.refl _) List.suffix_rfl nofun
  | cons f fs ih =>
    cases f
    case initWritten | initPoll | initDetected | initMode | initRing | initEnd | deinitDone =>
      exact .result v rfl (.refl _) List.suffix_rfl (by rintro _ ⟨⟩; rfl)
    case rxDone | txDone | linkUp | detect2 | checkStatus => exact (ih _ _).under rfl rfl
    case setMode | updSpeed =>
      rw [resume]
      split
      · exact (ih _ _).under rfl rfl
      · exact .run rfl ⟨rfl, rfl, id⟩
    case updLink =>
      rw [resume]
      split <;> exact .run rfl ⟨rfl, rfl, id⟩
    all_goals exact .run rfl ⟨rfl, rfl, id⟩

/-! ### One micro-step -/

/-- Where it answers, `r` is how an operation at the frames `fs` goes on from `s`. -/
def HandsOnOk (fs : List OpFrame) (s : State) (r : Except Fault (State × Cont)) : Prop := ∀ x, r = .ok x → HandsOn fs s x

section
variable {fs : List OpFrame} {s : State}

theorem handsOn_ok {x : State × Cont} (h : HandsOn fs s x) : HandsOnOk fs s (.ok x) := by rintro _ ⟨⟩; exact h

theorem handsOn_doRead {r : Reg} {k : Word → State → Except Fault (State × Cont)}
    (hk : ∀ v u, u.drv = s.drv → HandsOnOk fs s (k v u)) : HandsOnOk fs s (doRead r s k) := by
  intro x h
  obtain ⟨v, u, hu, hx⟩ := doRead_ok h
  exact hk v u (by rw [(busRead_ok hu).2.2.2]; rfl) x hx

theorem handsOn_doWrite {r : Reg} {v : Word} {k : State → State × Cont} (hk : ∀ u, u.drv = s.drv → HandsOn fs s (k u)) :
    HandsOnOk fs s (doWrite r v s k) := by
  rintro ⟨t, c⟩ h
  obtain ⟨u, hu, hx⟩ := doWrite_ok h
  exact hx ▸ hk u (by rw [(busWrite_ok hu).2.2.2]; rfl)

theorem handsOn_doAddress {reg : MiiAddr} {k : State → State × Cont} (hk : ∀ u, u.drv = s.drv → HandsOn fs s (k u)) :
    HandsOnOk fs s (doAddress reg s k) := by
  rintro ⟨t, c⟩ h
  obtain ⟨_, u, hu, hx⟩ := doAddress_ok h
  exact hx ▸ hk u (by rw [(busWrite_ok hu).2.2.2]; rfl)

theorem handsOn_doMemRead {a : Nat} {k : Word → State → State × Cont} (hk : ∀ v u, u.drv = s.drv → HandsOn fs s (k v u)) :
    HandsOnOk fs s (doMemRead a s k) := by
  rintro ⟨t, c⟩ h
  obtain ⟨v, u, hu, hx⟩ := doMemRead_ok h
  exact hx ▸ hk v u (by rw [(hostRead_ok hu).2.2]; rfl)

theorem handsOn_doMemWrite {a : Nat} {v : Word} {k : State → State × Cont} (hk : ∀ u, u.drv = s.drv → HandsOn fs s (k u)) :
    HandsOnOk fs s (doMemWrite a v s k) := by
  rintro ⟨t, c⟩ h
  obtain ⟨u, hu, hx⟩ := doMemWrite_ok h
  exact hx ▸ hk u (by rw [(hostWrite_ok hu).2.2]; rfl)

variable {u : State} (hu : u.drv = s.drv)
include hu

theorem seqRest_handsOn (ms ms' : List Micro) : HandsOn (.seq ms' :: fs) s (seqRest ms fs u) := by
  cases ms with
  | nil => exact (resume_handsOn 0 fs u).under rfl hu
  | cons m ms => exact .run hu ⟨rfl, rfl, id⟩

theorem rxNext_handsOn {f : OpFrame} (hf : bodyFrame f = true) (pkt dst len j : Nat) :
    HandsOn (f :: fs) s (rxNext pkt dst len j fs u) := by
  unfold rxNext
  split
  · have h := (SameStage.refl fs).under (quietFrame_of_bodyFrame hf)
    exact .run hu ⟨h.shape, h.stage, h.body⟩
  · exact (resume_handsOn 0 fs u).under (quietFrame_of_bodyFrame hf) hu

end

theorem txNext_sameStage {f : OpFrame} (hf : quietFrame f = true) (fs : List OpFrame) (pkt p src len j : Nat) :
    SameStage (f :: fs) (txNext pkt p src len j :: fs) := by
  have h := (SameStage.refl fs).under hf
  unfold txNext
  split <;> exact ⟨h.shape, h.stage, h.body⟩

theorem seqStep_handsOn (m : Micro) (ms : List Micro) (fs : List OpFrame) (s : State) :
    HandsOnOk (.seq (m :: ms) :: fs) s (seqStep m ms fs s) := by
  cases m with
  | write r v => exact handsOn_doWrite fun _ hu => seqRest_handsOn hu ms _
  | setBits r m | clrBits r m => exact handsOn_doRead fun _ _ hu => handsOn_ok (.run hu ⟨rfl, rfl, id⟩)
  | memWrite a v => exact handsOn_doMemWrite fun _ hu => seqRest_handsOn hu ms _
  | delay => exact handsOn_ok (seqRest_handsOn rfl ms _)
  | powerOff => exact handsOn_ok (seqRest_handsOn (s := s) (u := { s with powered := false, mii := .idle }) rfl ms _)

/-- A micro-step makes its access, which leaves `drv`, and then goes on at the frames below, or with quiet ones in place of its own. -/
theorem microStep_handsOn (fs : List OpFrame) (s : State) : HandsOnOk fs s (microStep fs s) := by
  cases fs with
  | nil => exact handsOn_ok (resume_handsOn 0 [] s)
  | cons f fs =>
    cases f with
    | seq ms =>
      cases ms with
      | nil => exact handsOn_ok ((resume_handsOn 0 fs s).under rfl rfl)
      | cons m ms => exact seqStep_handsOn m ms fs s
    | initRx | initTx =>
      refine handsOn_doRead fun cmd u hu => ?_
      split
      · rintro _ ⟨⟩
      · exact handsOn_ok (.run hu ⟨rfl, rfl, fun h => (Bool.false_ne_true h).elim⟩)
    | txPkt => exact handsOn_doMemRead fun _ _ hu => .run hu (txNext_sameStage rfl _ _ _ _ _ _)
    | txRead | rxRead => exact handsOn_doMemRead fun _ _ hu => .run hu ⟨rfl, rfl, id⟩
    | rxPkt => exact handsOn_doMemRead fun _ _ hu => rxNext_handsOn hu rfl _ _ _ _
    | txWrite => exact handsOn_doMemWrite fun _ hu => .run hu (txNext_sameStage rfl _ _ _ _ _ _)
    | txCtl => exact handsOn_doMemWrite fun u hu => (resume_handsOn _ _ u).under rfl hu
    | rxWrite => exact handsOn_doMemWrite fun _ hu => rxNext_handsOn hu rfl _ _ _ _
    | chkRx | chkTx | rpData => exact handsOn_doRead fun _ u hu => handsOn_ok ((resume_handsOn _ _ u).under rfl hu)
    | wpMadr | rpMadr => exact handsOn_doAddress fun _ hu => .run hu ⟨rfl, rfl, id⟩
    | wpMwtd | rpMcmd | rpClear => exact handsOn_doWrite fun _ hu => .run hu ⟨rfl, rfl, id⟩
    | wpPoll left =>
      refine handsOn_doRead fun m u hu => ?_
      split
      · exact handsOn_ok ((resume_handsOn _ _ u).under rfl hu)
      · cases left
        · exact handsOn_ok ((resume_handsOn _ _ u).under rfl hu)
        · exact handsOn_ok (.run hu ⟨rfl, rfl, id⟩)
    | rpPoll left =>
      refine handsOn_doRead fun m u hu => ?_
      split
      · exact handsOn_ok (.run hu ⟨rfl, rfl, id⟩)
      · cases left
        · exact handsOn_ok ((resume_handsOn _ _ u).under rfl hu)
        · exact handsOn_ok (.run hu ⟨rfl, rfl, id⟩)
    | updDelay left =>
      cases left
      · exact handsOn_ok ((resume_handsOn _ _ _).under rfl rfl)
      · exact handsOn_ok (.run rfl ⟨rfl, rfl, id⟩)
    | _ => exact handsOn_ok (resume_handsOn _ _ s)

/-! ### The rows of R401 -/

/-- The frames an operation still has before it; none once it has its result. -/
def Cont.frames : Cont → List OpFrame
  | .run fs => fs
  | .ret _ => []

/-- `fs` are the frames of a run, and `d` is the stage of the INIT they belong to, if they belong to one. -/
def InStage (fs : List OpFrame) (d : Drv) : Prop := initShape fs = true ∧ ∀ e, initStage fs = some e → d = e

theorem inStage_nil (d : Drv) : InStage [] d := ⟨rfl, nofun⟩

theorem InStage.congr {fs gs : List OpFrame} {d d' : Drv} (h : InStage fs d) (hg : SameStage fs gs) (hd : d' = d) :
    InStage gs d' := ⟨hg.shape.trans h.1, fun e he => hd.trans (h.2 e (hg.stage ▸ he))⟩

theorem inStage_of_quiet {fs : List OpFrame} (h : fs.all quietFrame = true) (d : Drv) : InStage fs d := by
  induction fs with
  | nil => exact inStage_nil d
  | cons f fs ih =>
    rw [List.all_cons, Bool.and_eq_true] at h
    have hunder := (SameStage.refl fs).under h.1
    exact ⟨hunder.shape.symm.trans (ih h.2).1, fun e he => (ih h.2).2 e (hunder.stage.trans he)⟩

/-- A micro-step of an operation at the frames `fs` moves `drv` by a row of R401, or by the two of the unsupported mode at once. -/
def EngineRow (fs : List OpFrame) (s : State) (x : State × Cont) : Prop :=
  x.1.drv = s.drv ∨ (s.drv, x.1.drv) ∈ drvTransitions ∨
    (s.drv = .phyDetect ∧ x.1.drv = .phyConfigFailed ∧ x.2 = .ret codeUnsupportedMode) ∨
    (x.1.drv = .uninitialized ∧ x.1.link = .unknown ∧ x.2 = .ret 0 ∧ fs.getLast? = some .deinitDone)

theorem EngineRow.row {fs : List OpFrame} {s : State} {x : State × Cont} {a : Drv} (hs : s.drv = a) (b : Drv)
    (hx : x.1.drv = b) (h : (a, b) ∈ drvTransitions) : EngineRow fs s x := .inr (.inl (hs ▸ hx ▸ h))

/-- The result `v` of what a frame of INIT or DEINIT awaits moves `drv` by that frame's row. -/
theorem resume_row {f : OpFrame} {fs : List OpFrame} {s : State} (v : Word) (hf : quietFrame f = false)
    (h : InStage (f :: fs) s.drv) : InStage (resume v (f :: fs) s).2.frames (resume v (f :: fs) s).1.drv ∧
      EngineRow (f :: fs) s (resume v (f :: fs) s) := by
  obtain ⟨hshape, hstage⟩ := h
  cases f
  case initWritten mac mode =>
    obtain rfl : fs = [] := eq_of_beq hshape
    have hd : s.drv = .resetting := hstage _ rfl
    rw [resume]
    split
    · exact ⟨inStage_nil _, .row hd .phyResetTimeout rfl (by decide)⟩
    · exact ⟨⟨rfl, by rintro _ ⟨⟩; exact hd⟩, .inl rfl⟩
  case initPoll mac mode left =>
    obtain rfl : fs = [] := eq_of_beq hshape
    have hd : s.drv = .resetting := hstage _ rfl
    simp only [resume]
    split
    · exact ⟨⟨rfl, by rintro _ ⟨⟩; rfl⟩, .row hd .phyDetect rfl (by decide)⟩
    · cases left
      · exact ⟨inStage_nil _, .row hd .phyResetTimeout rfl (by decide)⟩
      · exact ⟨⟨rfl, by rintro _ ⟨⟩; exact hd⟩, .inl rfl⟩
  case initDetected mac mode =>
    obtain rfl : fs = [] := eq_of_beq hshape
    have hd : s.drv = .phyDetect := hstage _ rfl
    rw [resume]
    split
    · exact ⟨inStage_nil _, .row hd .phyDetectFailed rfl (by decide)⟩
    · cases bmcrValue mode
      · exact ⟨inStage_nil _, .inr (.inr (.inl ⟨hd, rfl, rfl⟩))⟩
      · exact ⟨⟨rfl, by rintro _ ⟨⟩; rfl⟩, .row hd .phyConfiguring rfl (by decide)⟩
  case initMode mac =>
    obtain rfl : fs = [] := eq_of_beq hshape
    have hd : s.drv = .phyConfiguring := hstage _ rfl
    rw [resume]
    split
    · exact ⟨inStage_nil _, .row hd .phyConfigFailed rfl (by decide)⟩
    · exact ⟨⟨rfl, by rintro _ ⟨⟩; exact hd⟩, .inl rfl⟩
  case initRing =>
    have hd : s.drv = .phyConfiguring := hstage _ rfl
    simp only [initShape, Bool.and_eq_true, beq_iff_eq] at hshape
    obtain ⟨⟨htake, hrest⟩, hring⟩ := hshape
    obtain _ | ⟨f, fs⟩ := fs
    · cases htake
    · obtain rfl : f = .initRx := (List.cons.inj htake).1
      exact ⟨⟨hrest, fun e he => Option.some.inj (hring.symm.trans he)⟩, .row hd .ringInit rfl (by decide)⟩
  case initEnd linkDown =>
    obtain rfl : fs = [] := eq_of_beq hshape
    exact ⟨inStage_nil _, .row (hstage _ rfl) .enabled rfl (by decide)⟩
  case deinitDone =>
    obtain rfl : fs = [] := eq_of_beq hshape
    exact ⟨inStage_nil _, .inr (.inr (.inr ⟨rfl, rfl, rfl, rfl⟩))⟩
  all_goals cases hf

section
variable {fs : List OpFrame} {s : State} {x : State × Cont} (h : HandsOn fs s x)
include h

/-- An operation in its stage goes on in its stage. -/
theorem HandsOn.row (hs : InStage fs s.drv) : InStage x.2.frames x.1.drv ∧ EngineRow fs s x := by
  cases h with
  | run hd hg => exact ⟨hs.congr hg hd, .inl hd⟩
  | @result u gs v hd hg hsuf hhead =>
    cases gs with
    | nil => exact ⟨inStage_nil _, .inl hd⟩
    | cons f gs =>
      obtain ⟨hin, hrow⟩ := resume_row v (hhead f rfl) (hs.congr hg hd)
      refine ⟨hin, ?_⟩
      obtain ⟨pre, rfl⟩ := hsuf
      rw [EngineRow, hd] at hrow
      refine hrow.imp_right (Or.imp_right (Or.imp_right fun ⟨hdrv, hlink, hret, hlast⟩ => ⟨hdrv, hlink, hret, ?_⟩))
      rw [List.getLast?_append, hlast]
      rfl

/-- An operation of a callback body leaves `drv` and stays one (R163). -/
theorem HandsOn.body (hb : fs.all bodyFrame = true) : x.1.drv = s.drv ∧ x.2.frames.all bodyFrame = true := by
  cases h with
  | run hd hg => exact ⟨hd, hg.body hb⟩
  | @result u gs v hd hg hsuf hhead =>
    cases gs with
    | nil => exact ⟨hd, rfl⟩
    | cons f gs =>
      have hf := hg.body hb
      rw [List.all_cons, Bool.and_eq_true] at hf
      exact absurd (quietFrame_of_bodyFrame hf.1) (Bool.eq_false_iff.1 (hhead f rfl))

end

/-! ### The operation in progress after a move of the running context -/

theorem curOp_scan (ns : List (Fin 10)) (st : Word) (s : State) : curOp (scan ns st s) = [] := by
  induction ns generalizing s with
  | nil => rw [scan]; split <;> rfl
  | cons n ns ih =>
    rw [scan]
    split
    · split
      · split
        · exact ih _
        · rfl
      · exact ih s
    · exact ih s

theorem curOp_leaveBody (st : Word) (n : Fin 10) (s : State) : curOp (leaveBody st n s) = [] := by
  unfold leaveBody
  split
  · rfl
  · exact curOp_scan _ _ _

theorem curOp_enterWake (st : Word) (s : State) : curOp (enterWake st s) = [] := by
  unfold enterWake
  split
  · split <;> rfl
  · rfl

theorem curOp_goTo (k : Nat) (s : State) : curOp (goTo k s) = [] := by
  unfold goTo
  split
  · simp only [curOp, ‹s.irq = .idle›]
  · split
    · rfl
    · exact curOp_leaveBody _ _ _
  · rename_i st pos hpos hi
    cases pos <;> simp only [curOp, hi]
    exact (hpos _ _ _ _ rfl).elim

theorem curOp_haltAgent (s : State) : curOp (haltAgent s) = [] := by
  unfold haltAgent
  split
  · simp only [curOp, ‹s.irq = .idle›]
  · exact curOp_leaveBody _ _ _
  · rename_i st pos hpos hi
    cases pos <;> simp only [curOp, hi]
    exact (hpos _ _ _ _ rfl).elim

theorem curOp_putOp_cases (fs : List OpFrame) (s : State) : curOp (putOp fs s) = fs ∨ curOp (putOp fs s) = [] := by
  unfold putOp
  split
  · left; simp only [curOp, ‹s.irq = .idle›]
  · exact .inl rfl
  · rename_i st pos hpos hi
    right
    cases pos <;> simp only [curOp, hi]
    exact (hpos _ _ _ _ rfl).elim

theorem all_curOp_settle {q : OpFrame → Bool} {x : State × Cont} (h : x.2.frames.all q = true) :
    (curOp (settle x)).all q = true := by
  obtain ⟨t, gs | v⟩ := x
  · rcases curOp_putOp_cases gs t with ho | ho
    · exact (congrArg (List.all · q) ho).trans h
    · exact (congrArg (List.all · q) ho).trans rfl
  · exact (congrArg (List.all · q) (curOp_goTo _ _)).trans rfl

theorem settle_drv (x : State × Cont) : (settle x).drv = x.1.drv := by
  rw [(settle_moves x).frame]

/-! ### Commands other than INIT and DEINIT -/

/-- What a host context's step does that neither begins nor ends an INIT or a DEINIT: it leaves `drv`, and the operation it leaves in
progress, if any, is none of theirs, and is one of a callback body while IRQ runs. -/
structure LeavesEngine (s t : State) : Prop where
  drv : t.drv = s.drv
  op : (curOp t).all quietFrame = true
  body : s.irq ≠ .idle → (curOp t).all bodyFrame = true

section
variable {s t u : State}

theorem leavesEngine_of_body (hd : t.drv = s.drv) (hb : (curOp t).all bodyFrame = true) : LeavesEngine s t :=
  ⟨hd, List.all_eq_true.2 fun f hf => quietFrame_of_bodyFrame (List.all_eq_true.1 hb f hf), fun _ => hb⟩

theorem leavesEngine_of_noOp (hd : t.drv = s.drv) (ho : curOp t = []) : LeavesEngine s t :=
  leavesEngine_of_body hd (ho ▸ rfl)

theorem leavesEngine_goTo (hu : u.drv = s.drv) (k : Nat) : LeavesEngine s (goTo k u) :=
  leavesEngine_of_noOp ((goTo_drv k u).trans hu) (curOp_goTo k u)

theorem leavesEngine_finish (hu : u.drv = s.drv) (v : Word) : LeavesEngine s (u.finish v) :=
  leavesEngine_goTo ((putRet_drv v u).trans hu) _

theorem leavesEngine_opRun {fs : List OpFrame} (hb : fs.all bodyFrame = true) (h : opRun fs s = .next t) :
    LeavesEngine s t := by
  obtain ⟨x, hx, rfl⟩ := opAnswer_ok h
  obtain ⟨hd, hf⟩ := (microStep_handsOn fs s x hx).body hb
  exact leavesEngine_of_body ((settle_drv x).trans hd) (all_curOp_settle hf)

/-- A command whose first step is a register read. -/
theorem leavesEngine_doRead {r : Reg} {k : Word → State → Except Fault (State × Cont)}
    (hk : ∀ v u x, k v u = .ok x → x.1 = u ∧ x.2.frames.all bodyFrame = true) (h : opAnswer (doRead r s k) = .next t) :
    LeavesEngine s t := by
  obtain ⟨x, hx, rfl⟩ := opAnswer_ok h
  obtain ⟨v, u, hu, hx⟩ := doRead_ok hx
  obtain ⟨hxu, hf⟩ := hk v u x hx
  refine leavesEngine_of_body ((settle_drv x).trans ?_) (all_curOp_settle hf)
  rw [hxu, (busRead_ok hu).2.2.2]
  rfl

theorem leavesEngine_busRead {r : Reg} (h : answer (busRead r s) = .next t) : LeavesEngine s t := by
  obtain ⟨v, u, hu, rfl⟩ := answer_ok h
  exact leavesEngine_finish (by rw [(busRead_ok hu).2.2.2]; rfl) v

theorem leavesEngine_busWrite {r : Reg} {v : Word} (h : answerKeep (busWrite r v s) = .next t) : LeavesEngine s t := by
  obtain ⟨u, hu, rfl⟩ := answerKeep_ok h
  exact leavesEngine_goTo (by rw [(busWrite_ok hu).2.2.2]; rfl) _

/-- The ring initialisations, which only FG runs (R163). -/
theorem leavesEngine_initRing {f : OpFrame} (hf : f = .initRx ∨ f = .initTx) (hi : s.irq = .idle) (h : opRun [f] s = .next t) :
    LeavesEngine s t := by
  obtain ⟨x, hx, rfl⟩ := opAnswer_ok h
  have hquiet : x.1.drv = s.drv ∧ x.2.frames.all quietFrame = true := by
    rcases hf with rfl | rfl <;>
    · obtain ⟨v, u, hu, hx⟩ := doRead_ok hx
      split at hx <;> cases hx
      exact ⟨by rw [(busRead_ok hu).2.2.2]; rfl, rfl⟩
  exact ⟨(settle_drv x).trans hquiet.1, all_curOp_settle hquiet.2, fun hne => absurd hi hne⟩

end

theorem hashFilterSeq_bodyFrame (addr : List Byte) (enable : Bool) :
    [OpFrame.seq (hashFilterSeq addr enable)].all bodyFrame = true := rfl

theorem exec_leavesEngine {i : Instr} {s t : State} (h : exec i s = .next t) (hi : ∀ mac mode, i ≠ .init mac mode)
    (hd : i ≠ .deinit) : LeavesEngine s t := by
  cases i <;> simp only [exec, execInitRxRing, execInitTxRing, execWriteTxPacket, execReadRxPacket, execWritePhy,
    execReadPhy, execSetMode, execSetHashFilter, execSetupCallback, execDispatch, execBeq, execBne, execJmp] at h
  case init mac mode => exact absurd rfl (hi mac mode)
  case deinit => exact absurd rfl hd
  case initRxRing =>
    split at h
    · cases h
    · exact leavesEngine_initRing (.inl rfl) (not_not.1 ‹_›) h
  case initTxRing =>
    split at h
    · cases h
    · exact leavesEngine_initRing (.inr rfl) (not_not.1 ‹_›) h
  case writeTxPacket =>
    split at h; · cases h
    split at h; · cases h
    split at h; · cases h
    refine leavesEngine_doRead (fun v u x hx => ?_) h
    split at hx <;> cases hx
    exact ⟨rfl, rfl⟩
  case readRxPacket =>
    split at h; · cases h
    split at h; · cases h
    split at h; · cases h
    refine leavesEngine_doRead (fun v u x hx => ?_) h
    split at hx
    · cases hx
    · split at hx <;> cases hx <;> exact ⟨rfl, rfl⟩
  case advanceConsume | advanceProduce | checkReceiveIndex | checkTransmitIndex =>
    exact leavesEngine_doRead (fun v u x hx => by cases hx; exact ⟨rfl, rfl⟩) h
  case writePhy | readPhy => split at h; exacts [leavesEngine_opRun rfl h, by cases h]
  case detectPhy | checkStatus | updateStatus => exact leavesEngine_opRun rfl h
  case setMode =>
    split at h
    · exact leavesEngine_opRun rfl h
    · cases h; exact leavesEngine_finish rfl _
  case setHashFilter => split at h; exacts [leavesEngine_opRun (hashFilterSeq_bodyFrame _ _) h, by cases h]
  case setupCallback =>
    split at h; · cases h
    split at h <;> cases h
    · exact leavesEngine_finish rfl _
    · exact leavesEngine_finish (by rfl) _
  case dispatch =>
    split at h
    · unfold thenRead at h
      split at h <;> cases h
      rename_i v u hu
      exact leavesEngine_of_noOp (by rw [(busRead_ok hu).2.2.2]; rfl) rfl
    · cases h
  case crc32 => cases h; exact leavesEngine_finish rfl _
  case memRead32 =>
    obtain ⟨v, u, hu, rfl⟩ := answer_ok h
    exact leavesEngine_finish (by rw [(hostRead_ok hu).2.2]; rfl) v
  case memWrite32 =>
    obtain ⟨u, hu, rfl⟩ := answerKeep_ok h
    exact leavesEngine_goTo (by rw [(hostWrite_ok hu).2.2]; rfl) _
  case delayMs => cases h; exact leavesEngine_goTo (by rfl) _
  case beq | bne =>
    split at h
    · cases h; split <;> exact leavesEngine_goTo rfl _
    · cases h
  case jmp =>
    split at h <;> cases h
    exact leavesEngine_goTo rfl _
  case halt => cases h; exact leavesEngine_of_noOp (haltAgent_drv s) (curOp_haltAgent s)
  all_goals first | exact leavesEngine_busRead h | exact leavesEngine_busWrite h

/-! ### The steps of the IRQ agent -/

section
variable {s t : State} (hne : s.irq ≠ .idle)
include hne

/-- While IRQ runs, INIT and DEINIT fault, so no command moves `drv` (R163). -/
theorem exec_leavesEngine_of_running {i : Instr} (h : exec i s = .next t) : LeavesEngine s t := by
  refine exec_leavesEngine h (fun mac mode hi => ?_) fun hi => ?_
  · subst hi
    simp only [exec, execInit, if_pos hne] at h
    split at h <;> cases h
  · subst hi
    simp only [exec, execDeinit, if_pos hne] at h
    cases h

theorem contextStep_leavesEngine_of_running (hb : (curOp s).all bodyFrame = true) (h : contextStep s = .next t) :
    LeavesEngine s t := by
  unfold contextStep at h
  split at h
  · split at h
    · obtain ⟨i, _, he⟩ := runLine_ok h
      exact exec_leavesEngine_of_running hne he
    · cases h
      exact leavesEngine_of_body rfl hb
  · exact leavesEngine_opRun hb h

end

theorem LeavesEngine.irq {s t : State} (h : LeavesEngine s t) (hne : s.irq ≠ .idle) :
    t.drv = s.drv ∧ (t.irq ≠ .idle → (curOp t).all bodyFrame = true) := ⟨h.drv, fun _ => h.body hne⟩

/-- A step of the IRQ agent leaves `drv`, and the operation of a callback body stays one. -/
theorem irqStep_engine {s t : State} (hb : s.irq ≠ .idle → (curOp s).all bodyFrame = true) (h : irqStep s = .next t) :
    t.drv = s.drv ∧ (t.irq ≠ .idle → (curOp t).all bodyFrame = true) := by
  unfold irqStep at h
  split at h
  · cases h
    split
    · exact ⟨rfl, fun _ => rfl⟩
    · exact ⟨rfl, hb⟩
  · rename_i st pos hi
    have hne : s.irq ≠ .idle := by rw [hi]; simp
    split at h
    · obtain ⟨i, _, he⟩ := runLine_ok h
      exact (exec_leavesEngine_of_running hne he).irq hne
    · unfold dispatchEnable thenRead at h
      split at h <;> cases h
      rename_i v u hu
      rw [(busRead_ok hu).2.2.2]
      refine ⟨rfl, fun _ => ?_⟩
      dsimp only
      split <;> rfl
    · unfold dispatchClear thenWrite at h
      split at h <;> cases h
      rename_i u hu
      refine ⟨?_, fun _ => congrArg (List.all · bodyFrame) (curOp_scan _ _ _)⟩
      rw [(scan_moves _ _ _).2.2, (busWrite_ok hu).2.2.2]
      rfl
    · exact (contextStep_leavesEngine_of_running hne (hb hne) h).irq hne
    · unfold dispatchWolClear thenWrite at h
      split at h <;> cases h
      rename_i u hu
      refine ⟨?_, fun _ => congrArg (List.all · bodyFrame) (curOp_enterWake _ _)⟩
      rw [(enterWake_moves _ _).2.2, (busWrite_ok hu).2.2.2]
      rfl
    · cases h
      exact ⟨rfl, fun hn => absurd rfl hn⟩

/-- The IRQ agent leaves FG's operation where it was. -/
theorem irqStep_fgOp {s t : State} (ht : s.turn = .irq) (h : irqStep s = .next t) : t.fgOp = s.fgOp := by
  cases (irqStep_ok ht h).form with
  | stutter | interrupt => rfl
  | fg _ hf => cases ht.symm.trans hf
  | irq _ _ hne hs => exact (hs.fg_of_running hne).2.2.1
  | hardware _ hw => cases hw <;> rfl

/-! ### The steps of FG -/

theorem stageOk_iff (s : State) :
    s.stageOk ↔ InStage s.fgOp s.drv ∧ (s.irq ≠ .idle → (curOp s).all bodyFrame = true) := by
  unfold State.stageOk InStage curOp
  cases s.irq with
  | idle => simp
  | running st pos => cases pos <;> simp [and_assoc]

/-- FG's INIT begins in the stage of its soft reset (R400). -/
theorem exec_init_fg {mac : List Byte} {mode : Word} {s : State} (hmac : mac.length = 6) (hi : s.irq = .idle)
    (hd : s.drv = .uninitialized) : exec (.init mac mode) s = .next { s with
      powered := true, drv := .resetting, fgOp := initFrames mac mode } := by
  have hm : ¬isMac mac = false := by simp [isMac, hmac]
  rw [exec, execInit, if_neg hm, if_neg (not_not.2 hi), if_neg (not_not.2 hd)]
  exact congrArg Host.Outcome.next (putOp_fg (by exact hi) _)

theorem exec_init_inv {mac : List Byte} {mode : Word} {s t : State} (h : exec (.init mac mode) s = .next t) :
    mac.length = 6 ∧ s.irq = .idle ∧ s.drv = .uninitialized := by
  simp only [exec, execInit] at h
  split at h; · cases h
  rename_i hm
  split at h; · cases h
  rename_i hi
  split at h; · cases h
  rename_i hd
  exact ⟨by simpa [isMac] using hm, not_not.1 hi, not_not.1 hd⟩

/-- DEINIT of an unpowered block is one step (R404). -/
theorem exec_deinit_unpowered {s : State} (hi : s.irq = .idle) (hp : s.powered = false) : exec .deinit s =
    .next { s with drv := .uninitialized, link := .unknown, ret := 0, pc := s.pc + 1, fgOp := [] } := by
  rw [exec, execDeinit, if_neg (not_not.2 hi), if_neg (Bool.eq_false_iff.1 hp)]
  exact congrArg Host.Outcome.next (finish_fg (by exact hi) 0)

/-- DEINIT of a powered block begins with the write of IntEnable (R404). -/
theorem exec_deinit_powered {s : State} (hi : s.irq = .idle) (hp : s.powered = true) : exec .deinit s =
    .next (putOp [.seq [.write .intClear 0x000030FF, .powerOff], .deinitDone]
      (writeLogged .intEnable 0 { s.regs with intEnable := 0 } s)) := by
  rw [exec, execDeinit, if_neg (not_not.2 hi), if_pos hp, deinitSeq, intDefinedMask_eq]
  refine opRun_next (x := (_, .run _)) ?_
  rw [microStep, seqStep, doWrite_eq _ hp rfl rfl]
  rfl

theorem HostStep.irq_of_idle {s t : State} (h : HostStep s t) (hi : s.irq = .idle) : t.irq = .idle := by
  obtain ⟨u, v, ha, hm, hv⟩ := h
  exact hv.irq_idle.2 (by rw [hm.2.2, ha.frame]; exact hi)

/-- What a step of FG does to `drv`: nothing, or a row of R401, or the end of a DEINIT. -/
def FgRow (s t : State) : Prop :=
  t.drv = s.drv ∨ (s.drv, t.drv) ∈ drvTransitions ∨
    (s.drv = .phyDetect ∧ t.drv = .phyConfigFailed ∧ t.ret = codeUnsupportedMode ∧ t.fgOp = []) ∨
    (t.drv = .uninitialized ∧ t.link = .unknown ∧ t.ret = 0 ∧ t.fgOp = [] ∧ (s.fgOp.getLast? = some .deinitDone ∨
      s.fgOp = [] ∧ s.powered = false ∧ ∃ l, s.prog[s.pc]? = some l ∧ decode l = some .deinit))

section
variable {s t : State} (hi : s.irq = .idle)
include hi

/-- A command FG begins. -/
theorem exec_fgRow {i : Instr} {l : Line} (hop : s.fgOp = []) (hl : s.prog[s.pc]? = some l) (hdec : decode l = some i)
    (h : exec i s = .next t) : InStage t.fgOp t.drv ∧ FgRow s t := by
  by_cases hinit : ∃ mac mode, i = .init mac mode
  · obtain ⟨mac, mode, rfl⟩ := hinit
    obtain ⟨hmac, -, hd⟩ := exec_init_inv h
    cases (exec_init_fg hmac hi hd).symm.trans h
    exact ⟨⟨rfl, by rintro _ ⟨⟩; rfl⟩, .inr (.inl (hd ▸ List.mem_cons_self))⟩
  by_cases hdeinit : i = .deinit
  · subst hdeinit
    cases hp : s.powered with
    | false =>
      cases (exec_deinit_unpowered hi hp).symm.trans h
      exact ⟨inStage_nil _, .inr (.inr (.inr ⟨rfl, rfl, rfl, rfl, .inr ⟨hop, hp, l, hl, hdec⟩⟩))⟩
    | true =>
      cases (exec_deinit_powered hi hp).symm.trans h
      rw [putOp_fg (by exact hi)]
      exact ⟨⟨rfl, nofun⟩, .inl rfl⟩
  · have hleaves := exec_leavesEngine h (fun mac mode he => hinit ⟨mac, mode, he⟩) hdeinit
    have hop : curOp t = t.fgOp := by simp only [curOp, (exec_ok h).irq_of_idle hi]
    exact ⟨inStage_of_quiet (hop ▸ hleaves.op) _, .inl hleaves.drv⟩

/-- A micro-step of FG's operation. -/
theorem continueOp_fgRow (hs : InStage s.fgOp s.drv) (h : continueOp s = .next t) : InStage t.fgOp t.drv ∧ FgRow s t := by
  have hop : curOp s = s.fgOp := by simp only [curOp, hi]
  rw [continueOp, hop] at h
  obtain ⟨⟨u, c⟩, hx, rfl⟩ := opAnswer_ok h
  have hu : u.irq = .idle := (microStep_pos hx).1.trans hi
  obtain ⟨hin, hrow⟩ := (microStep_handsOn _ _ _ hx).row hs
  cases c with
  | run gs =>
    rw [settle, putOp_fg hu]
    refine ⟨hin, hrow.imp_right (Or.imp_right fun h => ?_)⟩
    rcases h with ⟨_, _, hret⟩ | ⟨_, _, hret, _⟩ <;> cases hret
  | ret v =>
    rw [settle, finish_fg hu]
    refine ⟨hin, hrow.imp_right (Or.imp_right (Or.imp (fun h => ?_) fun h => ?_))⟩
    · obtain ⟨hd, hu, hret⟩ := h
      exact ⟨hd, hu, Cont.ret.inj hret, rfl⟩
    · obtain ⟨hd, hlink, hret, hlast⟩ := h
      exact ⟨hd, hlink, Cont.ret.inj hret, rfl, .inl hlast⟩

theorem contextStep_fgRow (hs : InStage s.fgOp s.drv) (h : contextStep s = .next t) :
    InStage t.fgOp t.drv ∧ FgRow s t := by
  have hop : curOp s = s.fgOp := by simp only [curOp, hi]
  have hline : curLine s = s.prog[s.pc]? := by simp only [curLine, hi]
  unfold contextStep at h
  rw [hop, hline] at h
  split at h
  · split at h
    · rename_i hnil _ l hl
      obtain ⟨i, hdec, he⟩ := runLine_ok h
      exact exec_fgRow hi hnil hl hdec he
    · cases h
      exact ⟨hs, .inl rfl⟩
  · exact continueOp_fgRow hi hs h

end

/-! ### The obligation -/

/-- The step of the agent whose turn it is. -/
theorem agentStep_engine {s t : State} (hs : InStage s.fgOp s.drv) (hb : s.irq ≠ .idle → (curOp s).all bodyFrame = true)
    (h : agentStep s = .next t) : (InStage t.fgOp t.drv ∧ (t.irq ≠ .idle → (curOp t).all bodyFrame = true)) ∧
      (t.drv = s.drv ∨ s.turn = .fg ∧ s.irq = .idle ∧ FgRow s t) := by
  have hardware {w : State} (hw : w = s ∨ HardwareStep s w) :
      (InStage w.fgOp w.drv ∧ (w.irq ≠ .idle → (curOp w).all bodyFrame = true)) ∧
        (w.drv = s.drv ∨ s.turn = .fg ∧ s.irq = .idle ∧ FgRow s w) := by
    rcases hw with rfl | hw
    · exact ⟨⟨hs, hb⟩, .inl rfl⟩
    · cases hw <;> exact ⟨⟨hs, hb⟩, .inl rfl⟩
  unfold agentStep at h
  split at h
  · rename_i hturn
    unfold fgStep at h
    split at h
    · rename_i hc
      obtain ⟨hin, hrow⟩ := contextStep_fgRow hc.1 hs h
      exact ⟨⟨hin, fun hne => absurd ((contextStep_ok h).irq_of_idle hc.1) hne⟩, .inr ⟨hturn, hc.1, hrow⟩⟩
    · cases h
      exact ⟨⟨hs, hb⟩, .inl rfl⟩
  · rename_i hturn
    obtain ⟨hd, hbody⟩ := irqStep_engine hb h
    exact ⟨⟨by rw [irqStep_fgOp hturn h, hd]; exact hs, hbody⟩, .inl hd⟩
  · cases h; exact hardware (rxdmaStep_forms ‹_›)
  · cases h; exact hardware (txdmaStep_forms ‹_›)
  · cases h; exact hardware (miiStep_forms s)
  · cases h; exact hardware (wakeStep_forms _ s)

/-- Settles O44: the rows belong to the frames with which INIT and DEINIT await a result, and FG alone has such frames; every other
micro-step, command and agent leaves `drv`. -/
theorem macEngineTransitions : Obligations.MacEngineTransitions := by
  intro s t hs h
  obtain ⟨u, hu, rfl⟩ := step_next h
  obtain ⟨hstage, hbody⟩ := (stageOk_iff s).1 hs
  obtain ⟨hok, hrow⟩ := agentStep_engine hstage hbody hu
  refine ⟨(stageOk_iff _).2 hok, ?_⟩
  rcases hrow with hd | ⟨hturn, hi, hd | htable | ⟨hfrom, hto, hret, hop⟩ | ⟨hto, hlink, hret, hop, hend⟩⟩
  · exact .inl hd
  · exact .inl hd
  · exact .inr (.inl htable)
  · exact .inr (.inr (.inl ⟨hfrom, hto, hturn, hi, hret, hop⟩))
  · exact .inr (.inr (.inr ⟨hto, hlink, hturn, hi, hret, hop, hend⟩))

end Sys2Proof.Machine
end

section
/-!
PROOFS. Straight-line parts of operations (spec/40_bus.md R165, spec/43_mac.md R400 to R406): what a list of register writes, bit
changes, delays and a power-off makes of the block, said once as a function of the state, and the run that does it.
-/

namespace Sys2Proof.Machine

/-! ### What a straight-line part does -/

/-- The block after a micro-step, with the write that follows the read of a bit change (R165); memory is left out. -/
def Micro.effect (s : State) : Micro → State
  | .write r v => writeEffect r v s
  | .setBits r m => writeEffect r (readReg r s ||| m) s
  | .clrBits r m => writeEffect r (readReg r s &&& ~~~m) s
  | .powerOff => { s with powered := false, mii := .idle }
  | .delay | .memWrite _ _ => s

/-- The steps it takes. -/
def Micro.steps : Micro → Nat
  | .setBits _ _ | .clrBits _ _ => 2
  | _ => 1

/-- A powered block accepts the write of `v` to `r`. -/
def Accepts (r : Reg) (v : Word) (s : State) : Prop :=
  s.powered = true ∧ regReadOnly r = false ∧ writeCheck r v s = none

/-- A read of `r` returns what the register holds, and is no draw. -/
def readsBack (r : Reg) : Bool := !regWriteOnly r && r != .mind && r != .status

/-- The micro-step answers; a store is none of these. -/
def Micro.Allowed (s : State) : Micro → Prop
  | .write r v => Accepts r v s
  | .setBits r m => readsBack r = true ∧ Accepts r (readReg r s ||| m) s
  | .clrBits r m => readsBack r = true ∧ Accepts r (readReg r s &&& ~~~m) s
  | .delay | .powerOff => True
  | .memWrite _ _ => False

/-- The block after a straight-line part. -/
def seqEffect : List Micro → State → State
  | [], s => s
  | m :: ms, s => seqEffect ms (m.effect s)

/-- The steps of a straight-line part. -/
def seqSteps (ms : List Micro) : Nat := (ms.map Micro.steps).sum

/-- Every micro-step of a straight-line part answers. -/
def SeqAllowed : List Micro → State → Prop
  | [], _ => True
  | m :: ms, s => m.Allowed s ∧ SeqAllowed ms (m.effect s)

/-! ### The runs -/

theorem Micro.effect_irq (s : State) (m : Micro) : (m.effect s).irq = s.irq := by cases m <;> rfl

theorem Reached.writeEffect {s t : State} {M : Memory → Prop} (h : Reached s M t) (r : Reg) (v : Word) :
    Reached (writeEffect r v s) M (writeEffect r v t) := by
  obtain ⟨m, _, _, _, hm, rfl⟩ := h
  exact ⟨m, _, _, _, hm, by cases r <;> rfl⟩

section
variable {s : State} {M : Memory → Prop} {ms : List Micro} {fs : List OpFrame} {c : Cont} {Q : State → Prop}
  (hp : s.inProgram)
include hp

/-- An accepted write, whatever its effect. -/
theorem runs_effect {r : Reg} {v : Word} (h : Accepts r v s)
    (hk : ∀ u, Reached (writeEffect r v s) M u → ∃ t, seqRest ms fs u = (t, c) ∧ Q t) :
    Runs 1 (Reached s M) (.run (.seq (.write r v :: ms) :: fs)) c Q := by
  obtain ⟨hon, hr, hc⟩ := h
  refine runs_step hp fun u hu => ?_
  have hbus := busWrite_eq (v := v) (hu.powered.trans hon) hr ((writeCheck_congr r v hu.regs hu.mii).trans hc)
  obtain ⟨t, ht, hQ⟩ := hk _ ((hu.writeEffect r v).log (.bus u.agent r.offset .write v))
  refine ⟨t, ?_, hQ⟩
  simp only [microStep, seqStep, doWrite, hbus, ht]

/-- One micro-step, with the write of a bit change. -/
theorem runs_micro {m : Micro} (h : m.Allowed s)
    (hk : ∀ u, Reached (m.effect s) M u → ∃ t, seqRest ms fs u = (t, c) ∧ Q t) :
    Runs m.steps (Reached s M) (.run (.seq (m :: ms) :: fs)) c Q := by
  have bits (on : Bool) {r : Reg} {m : Word} (hr : readsBack r = true) (ha : Accepts r (putBits on m (readReg r s)) s)
      (hk : ∀ u, Reached (writeEffect r (putBits on m (readReg r s)) s) M u → ∃ t, seqRest ms fs u = (t, c) ∧ Q t) :
      Runs 2 (Reached s M) (.run (.seq (.putBits on r m :: ms) :: fs)) c Q := by
    simp only [readsBack, Bool.and_eq_true, Bool.not_eq_true', bne_iff_ne] at hr
    obtain ⟨⟨hread, hmind⟩, hstatus⟩ := hr
    exact (runs_putBits hp ha.1 on hread hmind hstatus rfl).trans (runs_effect hp ha hk)
  cases m with
  | write r v => exact runs_effect hp h hk
  | setBits r m => exact bits true h.1 h.2 hk
  | clrBits r m => exact bits false h.1 h.2 hk
  | delay => exact runs_step hp fun u hu => (hk u hu).imp fun t ht => ⟨congrArg Except.ok ht.1, ht.2⟩
  | powerOff =>
    refine runs_step hp fun u hu => ?_
    have hoff : Reached { s with powered := false, mii := .idle } M { u with powered := false, mii := .idle } := by
      obtain ⟨m, _, _, _, hm, rfl⟩ := hu
      exact ⟨m, _, _, _, hm, rfl⟩
    exact (hk _ hoff).imp fun t ht => ⟨congrArg Except.ok ht.1, ht.2⟩
  | memWrite => exact h.elim

/-- A straight-line part, to what follows it. -/
theorem runs_seq {m : Micro} (h : SeqAllowed (m :: ms) s)
    (hk : ∀ u, Reached (seqEffect (m :: ms) s) M u → ∃ t, resume 0 fs u = (t, c) ∧ Q t) :
    Runs (seqSteps (m :: ms)) (Reached s M) (.run (.seq (m :: ms) :: fs)) c Q := by
  induction ms generalizing s m with
  | nil => exact runs_micro hp h.1 hk
  | cons m' ms ih =>
    have first : Runs m.steps (Reached s M) (.run (.seq (m :: m' :: ms) :: fs)) (.run (.seq (m' :: ms) :: fs))
        (Reached (m.effect s) M) := runs_micro hp h.1 fun u hu => ⟨u, rfl, hu⟩
    exact first.trans (ih (inProgram_of_irq hp (m.effect_irq s)) h.2 hk)

end

/-! ### Where FG ends -/

theorem Reached.writeLogged (r : Reg) (v : Word) (regs : Regs) (s : State) :
    Reached { s with regs := regs } (· = s.mem) (writeLogged r v regs s) :=
  ((Reached.self (s := s) (M := (· = s.mem)) rfl).setRegs regs).log _

theorem Reached.setDrv {s t : State} {M : Memory → Prop} (h : Reached s M t) (d : Drv) :
    Reached { s with drv := d } M { t with drv := d } := by
  obtain ⟨m, _, _, _, hm, rfl⟩ := h
  exact ⟨m, _, _, _, hm, rfl⟩

section
variable {n : Nat} {fs : List OpFrame} {s s' : State} (hi : s.irq = .idle) (hop : s.fgOp = fs) (hi' : s'.irq = .idle)
include hi hop hi'

/-- A run of FG's operation that leaves it in progress. -/
theorem Runs.endsIn_run {gs : List OpFrame} (h : Runs n (Reached s (· = s.mem)) (.run fs) (.run gs) (Reached s' (· = s.mem))) :
    Machine.endsIn (aloneRun n s) { s' with mem := s.mem, fgOp := gs } id (fun _ => True) := by
  obtain ⟨_, ⟨_, hist, tn, tick, rfl, rfl⟩, hrun⟩ := h s (Reached.self rfl)
  have hstart : settle (s, .run fs) = s := by rw [settle, putOp_fg hi, ← hop]
  have hend := hrun 0
  rw [hstart, settle, putOp_fg (by exact hi')] at hend
  exact ⟨hist, tn, tick, hend, trivial⟩

/-- A run of FG's operation to its end. -/
theorem Runs.endsIn_ret {v : Word} (h : Runs n (Reached s (· = s.mem)) (.run fs) (.ret v) (Reached s' (· = s.mem))) :
    Machine.endsIn (aloneRun n s) { s' with mem := s.mem, ret := v, pc := s'.pc + 1, fgOp := [] } id (fun _ => True) := by
  obtain ⟨_, ⟨_, hist, tn, tick, rfl, rfl⟩, hrun⟩ := h s (Reached.self rfl)
  have hstart : settle (s, .run fs) = s := by rw [settle, putOp_fg hi, ← hop]
  have hend := hrun 0
  rw [hstart, settle, finish_fg (by exact hi')] at hend
  exact ⟨hist, tn, tick, hend, trivial⟩

end

end Sys2Proof.Machine
end

section
/-!
PROOFS. DEINIT and SET_HASH_FILTER, whole (spec/43_mac.md R404 to R406).
-/

namespace Sys2Proof.Machine

/-! ### DEINIT -/

/-- Settles O39: the write of IntEnable, the write of IntClear, the power-off, and the frame that resets the engine. -/
theorem deinitPowersOff : Obligations.DeinitPowersOff := by
  refine fun s hi => ⟨fun hon => ⟨exec_deinit_powered hi hon, ?_⟩, exec_deinit_unpowered hi⟩
  have run := runs_seq (s := { s with regs := { s.regs with intEnable := 0 } }) (M := (· = s.mem)) (m := .write .intClear 0x000030FF)
    (ms := [.powerOff]) (fs := [.deinitDone]) (c := .ret 0) (inProgram_of_idle hi) ⟨⟨hon, rfl, rfl⟩, trivial, trivial⟩
    fun u hu => ⟨_, rfl, (hu.setDrv .uninitialized).setLink .unknown⟩
  obtain ⟨_, rfl, hend⟩ := run.endsIn (exec_deinit_powered hi hon) (Reached.writeLogged _ _ _ s)
  exact hend

/-! ### SET_HASH_FILTER -/

/-- The bit of a table word that an index names, set or cleared. -/
theorem putBits_bitMask_getLsbD (on : Bool) (w : Word) {k j : Nat} (hj : j < 32) :
    (putBits on (bitMask k) w).getLsbD j = if j = k then on else w.getLsbD j := by
  have hmask : (bitMask k).getLsbD j = decide (j = k) := by
    rw [bitMask, ← BitVec.twoPow_eq, BitVec.getLsbD_twoPow]
    by_cases h : j = k
    · subst h; simp [hj]
    · simp [h, Ne.symm h]
  cases on
  · change (w &&& ~~~bitMask k).getLsbD j = _
    rw [BitVec.getLsbD_and, BitVec.getLsbD_not, hmask]
    by_cases h : j = k <;> simp [h, hj]
  · change (w ||| bitMask k).getLsbD j = _
    rw [BitVec.getLsbD_or, hmask]
    by_cases h : j = k <;> simp [h]

/-- The table register that holds bit `i` (R83). -/
def hashReg (i : Nat) : Reg := if i < 32 then .hashFilterL else .hashFilterH

/-- What SET_HASH_FILTER does after the table bit (R405, R406). -/
def hashFilterRest : List Micro :=
  .clrBits .command 0x0080 :: if Config.hashSetsRfc then [.setBits .rxFilterCtrl 0x0018] else []

theorem hashFilterSeq_eq (addr : List Byte) (on : Bool) : hashFilterSeq addr on =
    .putBits on (hashReg (hashIndex (crc32 addr))) (bitMask (hashIndex (crc32 addr) % 32)) :: hashFilterRest := by
  have hlt : hashIndex (crc32 addr) < 64 := (BitVec.extractLsb' 23 6 (crc32 addr)).isLt
  unfold hashFilterSeq hashReg
  by_cases h : hashIndex (crc32 addr) < 32
  · simp only [if_neg (Nat.not_le.2 h), if_pos h, Nat.mod_eq_of_lt h]
    cases on <;> rfl
  · have hmod : hashIndex (crc32 addr) % 32 = hashIndex (crc32 addr) - 32 := by omega
    simp only [if_pos (Nat.not_lt.1 h), if_neg h, hmod]
    cases on <;> rfl

/-- The steps of SET_HASH_FILTER after its first. -/
theorem seqSteps_hashFilter (r : Reg) (w : Word) :
    seqSteps (.write r w :: hashFilterRest) = if Config.hashSetsRfc then 5 else 3 := by
  unfold hashFilterRest
  cases Config.hashSetsRfc <;> rfl

section
variable {s : State} (hcmd : s.regs.command &&& 0x000007C3 = s.regs.command)
  (hrfc : s.regs.rxFilterCtrl &&& 0x0000303F = s.regs.rxFilterCtrl)
include hcmd hrfc

/-- Pass-all mode ends, and the hash filter is enabled where the parameter says so. -/
theorem seqEffect_hashFilterRest : seqEffect hashFilterRest s = { s with regs := { s.regs with
    command := s.regs.command &&& ~~~0x00000080#32
    rxFilterCtrl := if Config.hashSetsRfc then s.regs.rxFilterCtrl ||| 0x18 else s.regs.rxFilterCtrl } } := by
  have command := writeEffect_command_plain s (putBits_masked false (m := 0x00000080) rfl hcmd)
  have filter : (s.regs.rxFilterCtrl ||| 0x18) &&& 0x0000303F = s.regs.rxFilterCtrl ||| 0x18 := or_masked hrfc rfl
  unfold hashFilterRest
  rw [seqEffect]
  refine (congrArg (seqEffect _) command).trans ?_
  cases Config.hashSetsRfc
  · rfl
  · exact congrArg (fun w => { s with regs := { s.regs with command := s.regs.command &&& ~~~0x00000080#32, rxFilterCtrl := w } })
      filter

end

theorem seqAllowed_hashFilterRest {s : State} (hon : s.powered = true) : SeqAllowed hashFilterRest s := by
  refine ⟨⟨rfl, hon, rfl, rfl⟩, ?_⟩
  cases Config.hashSetsRfc
  · trivial
  · exact ⟨⟨rfl, hon, rfl, rfl⟩, trivial⟩

section
variable {s : State} {addr : List Byte} {enable : Nat} (hmac : addr.length = 6) (hflag : enable < 2) (hon : s.powered = true)
include hmac hflag hon

/-- The first step of SET_HASH_FILTER reads the table register (R405). -/
theorem exec_setHashFilter {i : Nat} (hi : i = hashIndex (crc32 addr)) : exec (.setHashFilter addr enable) s =
    .next (putOp [.seq (.write (hashReg i) (putBits (enable == 1) (bitMask (i % 32)) (readReg (hashReg i) s)) :: hashFilterRest)]
      (readLogged (hashReg i) (readReg (hashReg i) s) s)) := by
  have hargs : (isMac addr && isFlag enable) = true := by simp [isMac, isFlag, hmac, hflag]
  have hr : regWriteOnly (hashReg i) = false := by unfold hashReg; split <;> rfl
  subst hi
  rw [exec, execSetHashFilter, if_pos hargs, hashFilterSeq_eq]
  refine opRun_next (x := (_, .run _)) ?_
  cases enable == 1 <;> exact doRead_eq hon hr

/-- SET_HASH_FILTER, whole: the write of the table register, then the rest. -/
theorem setHashFilter_endsIn {i : Nat} {w : Word} {regs : Regs} (hi : i = hashIndex (crc32 addr))
    (hw : putBits (enable == 1) (bitMask (i % 32)) (readReg (hashReg i) s) = w) (hp : s.inProgram)
    (hallowed : SeqAllowed (.write (hashReg i) w :: hashFilterRest) s)
    (heffect : seqEffect (.write (hashReg i) w :: hashFilterRest) s = { s with regs := regs }) :
    endsIn (aloneCommand (.setHashFilter addr enable) (if Config.hashSetsRfc then 5 else 3) s) { s with regs := regs }
      (State.finish 0) (fun _ => True) := by
  have run := runs_seq (M := (· = s.mem)) (fs := []) (c := .ret 0) hp hallowed fun u hu => ⟨u, rfl, heffect ▸ hu⟩
  obtain ⟨_, rfl, hend⟩ := run.endsIn (hw ▸ exec_setHashFilter hmac hflag hon hi) (Reached.readLogged _ _)
  rw [← seqSteps_hashFilter]
  exact hend

end

/-- Settles O40: one table bit is written, in the half the index names; the rest of the operation writes the two other registers. -/
theorem hashFilterBit : Obligations.HashFilterBit := by
  intro s addr enable i hmac hflag hon hi
  refine ⟨⟨hashReg i, readReg (hashReg i) s, _, hashFilterRest, rfl, exec_setHashFilter hmac hflag hon hi,
    if_congr beq_iff_eq rfl rfl⟩, fun hp hres => ?_⟩
  obtain ⟨-, -, -, -, -, -, -, -, -, -, -, -, -, -, hcmd, -, -, -, -, -, -, -, -, -, -, hrfc, -⟩ := hres
  rw [and_not_eq_zero_iff] at hcmd hrfc
  have hlt : i < 64 := hi ▸ (BitVec.extractLsb' 23 6 (crc32 addr)).isLt
  have whole {regs : Regs} {w : Word} := setHashFilter_endsIn (regs := regs) (w := w) hmac hflag hon hi (hp := hp)
  have bit {k j : Nat} (w : Word) (hj : j < 32) := putBits_bitMask_getLsbD (enable == 1) w (k := k) hj
  by_cases hlow : i < 32
  · simp only [hashReg, if_pos hlow, Nat.mod_eq_of_lt hlow] at whole
    refine ⟨putBits (enable == 1) (bitMask i) s.regs.hashFilterL, s.regs.hashFilterH,
      whole rfl ⟨⟨hon, rfl, rfl⟩, seqAllowed_hashFilterRest hon⟩ (seqEffect_hashFilterRest hcmd hrfc), fun j hj => bit _ hj,
      fun j hj => ?_⟩
    rw [if_neg (by omega)]
  · have hmod : i % 32 = i - 32 := by omega
    simp only [hashReg, if_neg hlow, hmod] at whole
    refine ⟨s.regs.hashFilterL, putBits (enable == 1) (bitMask (i - 32)) s.regs.hashFilterH,
      whole rfl ⟨⟨hon, rfl, rfl⟩, seqAllowed_hashFilterRest hon⟩ (seqEffect_hashFilterRest hcmd hrfc), fun j hj => ?_,
      fun j hj => ?_⟩
    · rw [if_neg (by omega)]
    · rw [bit _ hj]
      exact if_congr (by omega) rfl rfl

end Sys2Proof.Machine
end

section
/-!
PROOFS. The parts of INIT (spec/43_mac.md R400, R402, R403): the divider selection, the station address, and the straight-line parts
at its two ends.
-/

namespace Sys2Proof.Machine

/-! ### The divider selection (R402) -/

/-- The index of the first entry that reaches the ratio: those before it do not, and it does, if it is one. -/
theorem dividerIndex_spec (ratio : Nat) (ts : List Nat) : dividerIndex ratio ts ≤ ts.length ∧
    (∀ k (h : k < ts.length), k = dividerIndex ratio ts → ratio ≤ ts[k]) ∧
    (∀ k (h : k < ts.length), k < dividerIndex ratio ts → ts[k] < ratio) := by
  induction ts with
  | nil => exact ⟨Nat.le_refl 0, nofun, nofun⟩
  | cons t ts ih =>
    obtain ⟨hlen, hat, hbelow⟩ := ih
    rw [dividerIndex]
    split
    · rename_i ht
      exact ⟨Nat.zero_le _, by rintro _ _ rfl; exact ht, fun k _ hk => absurd hk (Nat.not_lt_zero k)⟩
    · rename_i ht
      refine ⟨Nat.succ_le_succ hlen, fun k h hk => ?_, fun k h hk => ?_⟩
      · subst hk
        exact hat _ (Nat.lt_of_succ_lt_succ h) rfl
      · cases k with
        | zero => exact Nat.lt_of_not_le ht
        | succ k => exact hbelow k (Nat.lt_of_succ_lt_succ h) (Nat.lt_of_succ_lt_succ hk)

theorem clockSelect_bounds (hz : Nat) : 1 ≤ clockSelect hz ∧ clockSelect hz ≤ 8 :=
  ⟨Nat.le_add_left 1 _, Nat.succ_le_succ (dividerIndex_spec (hz / Config.miiTargetHz) Config.miiDivTable).1⟩

/-! ### The station address (R403) -/

/-- A pair of octets is as wide as its register. -/
theorem octetPair_masked (hi lo : Byte) : octetPair hi lo &&& 0x0000FFFF = octetPair hi lo := setWidth_masked (hi ++ lo)

theorem octetPair_high (hi lo : Byte) : (octetPair hi lo).extractLsb' 8 8 = hi := by
  ext j hj
  have h32 : 8 + j < 32 := by omega
  rw [octetPair, BitVec.getElem_extractLsb', BitVec.getLsbD_setWidth, BitVec.getLsbD_append, if_neg (by omega),
    Nat.add_sub_cancel_left, decide_eq_true h32, Bool.true_and, BitVec.getLsbD_eq_getElem hj]

theorem octetPair_low (hi lo : Byte) : (octetPair hi lo).extractLsb' 0 8 = lo := by
  ext j hj
  have h32 : 0 + j < 32 := by omega
  rw [octetPair, BitVec.getElem_extractLsb', BitVec.getLsbD_setWidth, BitVec.getLsbD_append, if_pos (by omega),
    decide_eq_true h32, Bool.true_and, Nat.zero_add, BitVec.getLsbD_eq_getElem hj]

theorem saValue_masked (mac : List Byte) (k : Nat) : saValue mac k &&& 0x0000FFFF = saValue mac k := by
  unfold saValue
  split <;> exact octetPair_masked _ _

/-- The three registers hold the octets of the address, under either order (R47). -/
theorem stationOctets_saValue {mac : List Byte} (hmac : mac.length = 6) {r : Regs} (h0 : r.sa0 = saValue mac 0)
    (h1 : r.sa1 = saValue mac 1) (h2 : r.sa2 = saValue mac 2) : stationOctets r = mac := by
  match mac, hmac with
  | [a, b, c, d, e, f], _ =>
    simp only [stationOctets, h0, h1, h2, saValue]
    cases Config.saReversed <;> simp only [if_true, if_false, Bool.false_eq_true, octetPair_high, octetPair_low] <;> rfl

/-- Settles O41: the divider's index is the first that reaches the ratio; each of the three writes stores its pair of octets. -/
theorem clockSelectAndStationAddress : Obligations.ClockSelectAndStationAddress := by
  refine ⟨fun hz sel hsel => ?_, fun s mac fs hmac hi hon hop => ?_⟩
  · subst hsel
    obtain ⟨-, hat, hbelow⟩ := dividerIndex_spec (hz / Config.miiTargetHz) Config.miiDivTable
    obtain ⟨hlo, hhi⟩ := clockSelect_bounds hz
    exact ⟨hlo, hhi, fun k h hk => hat k h (Nat.succ.inj hk), fun k h hk => hbelow k h (Nat.lt_of_succ_lt_succ hk)⟩
  · have run := runs_seq (s := s) (M := (· = s.mem)) (m := .write .sa0 (saValue mac 0))
      (ms := [.write .sa1 (saValue mac 1), .write .sa2 (saValue mac 2)]) (fs := .initRing :: .initRx :: fs)
      (c := .run (.initRx :: fs)) (inProgram_of_idle hi) ⟨⟨hon, rfl, rfl⟩, ⟨hon, rfl, rfl⟩, ⟨hon, rfl, rfl⟩, trivial⟩
      fun u hu => ⟨_, rfl, hu.setDrv .ringInit⟩
    exact ⟨_, _, _, run.endsIn_run hi hop (by exact hi),
      stationOctets_saValue hmac (saValue_masked mac 0) (saValue_masked mac 1) (saValue_masked mac 2)⟩

/-! ### INIT up to the PHY reset (R400) -/

/-- The divider in MCFG once the MII reset has been taken back (R41, R402). -/
theorem mcfg_of_clockSelect (hz : Nat) : ((word (clockSelect hz) <<< 2 ||| 0x8000#32) &&& 0x803F#32 &&& ~~~0x8000#32) &&& 0x803F#32 =
    BitVec.ofNat 32 (4 * clockSelect hz) := by
  obtain ⟨-, hle⟩ := clockSelect_bounds hz
  generalize clockSelect hz = n at hle
  interval_cases n <;> rfl

/-- The block after the straight-line part of INIT before the PHY reset. -/
theorem seqEffect_initHead (s : State) : seqEffect initHead s = { s with
    rxMidFrame := false
    rxRemain := []
    regs := { Regs.reset with
      mac1 := 0x0002, mac2 := 0x0030, maxf := 0x0600, clrt := 0x370F, ipgr := 0x0C12, supp := 0x0000
      mcfg := BitVec.ofNat 32 (4 * clockSelect Config.coreClkHz)
      command := 0x0240
      ipgt := s.regs.ipgt, mcmd := s.regs.mcmd, madr := s.regs.madr, mrdd := s.regs.mrdd
      sa0 := s.regs.sa0, sa1 := s.regs.sa1, sa2 := s.regs.sa2 } } := by
  rw [← mcfg_of_clockSelect]
  rfl

/-- The writes of MCFG want no cycle in flight (R213); the rest answer on a powered block. -/
theorem seqAllowed_initHead {s : State} (hon : s.powered = true) (hm : s.mii = .idle) : SeqAllowed initHead s := by
  have mcfg (v : Word) {t : State} (ht : t.mii = s.mii) : writeCheck .mcfg v t = none := if_neg (not_busy (ht.trans hm))
  exact ⟨⟨hon, rfl, rfl⟩, ⟨hon, rfl, rfl⟩, trivial, ⟨hon, rfl, rfl⟩, ⟨hon, rfl, rfl⟩, ⟨hon, rfl, rfl⟩,
    ⟨hon, rfl, mcfg _ rfl⟩, ⟨rfl, hon, rfl, mcfg _ rfl⟩, ⟨hon, rfl, rfl⟩, ⟨hon, rfl, rfl⟩, ⟨hon, rfl, rfl⟩, ⟨hon, rfl, rfl⟩,
    trivial, ⟨hon, rfl, rfl⟩, trivial⟩

/-- The straight-line part, from its first write to the PHY reset write. -/
theorem initHead_endsIn {s : State} {mac : List Byte} {mode : Word} (hi : s.irq = .idle) (hon : s.powered = true) (hm : s.mii = .idle)
    (hop : s.fgOp = initFrames mac mode) : endsIn (aloneRun 15 s)
      { seqEffect initHead s with mem := s.mem, fgOp := [.wpMadr 0 0x8000, .initWritten mac mode] } id (fun _ => True) := by
  have hi' : (seqEffect initHead s).irq = .idle := by rw [seqEffect_initHead, hi]
  have run := runs_seq (M := (· = s.mem)) (fs := [.wpMadr 0 0x8000, .initWritten mac mode])
    (c := .run [.wpMadr 0 0x8000, .initWritten mac mode]) (inProgram_of_idle hi) (seqAllowed_initHead hon hm)
    fun u hu => ⟨u, rfl, hu⟩
  exact run.endsIn_run hi hop hi'

/-- Settles O42: INIT's first step switches the block on, and its first straight-line part runs to the PHY reset write. -/
theorem initProgramsTheMac : Obligations.InitProgramsTheMac := by
  intro s mac mode hmac hi
  refine ⟨fun hd => ?_, fun hd => ⟨exec_init_fg hmac hi hd, fun hm => ?_⟩⟩
  · have hm : ¬isMac mac = false := by simp [isMac, hmac]
    exact (if_neg hm).trans ((if_neg (not_not.2 hi)).trans (if_pos hd))
  · rw [aloneCommand, exec_init_fg hmac hi hd]
    have run := initHead_endsIn (s := { s with powered := true, drv := .resetting, fgOp := initFrames mac mode }) hi rfl hm rfl
    rwa [seqEffect_initHead] at run

/-! ### The end of INIT (R400) -/

/-- The block after INIT's last writes, its registers having had 0 in their reserved bits (R201). -/
theorem seqEffect_initTail {s : State} (hres : s.regs.reservedZero) : seqEffect initTail s = { s with regs := { s.regs with
    rxFilterCtrl := 0x0026
    intEnable := 0x0088
    intStatus := 0
    command := s.regs.command ||| 0x0003
    mac1 := s.regs.mac1 ||| 0x0001 } } := by
  obtain ⟨hmac1, -, -, -, -, -, -, -, -, -, -, -, -, -, hcmd, -, -, -, -, -, -, -, -, -, -, -, -, hints, -⟩ := hres
  rw [and_not_eq_zero_iff] at hmac1 hcmd
  have enable : (s.regs.mac1 ||| 0x0001) &&& 0x0000CF1F = s.regs.mac1 ||| 0x0001 := or_masked hmac1 rfl
  have command := writeEffect_command_plain
    { s with regs := { s.regs with rxFilterCtrl := 0x0026, intEnable := 0x0088, intStatus := 0 } }
    (or_masked (b := 0x0003) hcmd rfl)
  have clear : seqEffect initTail s = seqEffect [.setBits .command 0x0003, .setBits .mac1 0x0001]
      { s with regs := { s.regs with rxFilterCtrl := 0x0026, intEnable := 0x0088, intStatus := 0 } } :=
    congrArg (fun w => seqEffect [.setBits .command 0x0003, .setBits .mac1 0x0001]
      { s with regs := { s.regs with rxFilterCtrl := 0x0026, intEnable := 0x0088, intStatus := w } }) hints
  rw [clear, seqEffect]
  refine (congrArg (seqEffect _) command).trans ?_
  exact congrArg (fun w => { s with regs := { s.regs with
    rxFilterCtrl := 0x0026, intEnable := 0x0088, intStatus := 0, command := s.regs.command ||| 0x0003, mac1 := w } }) enable

theorem seqAllowed_initTail {s : State} (hon : s.powered = true) : SeqAllowed initTail s :=
  ⟨⟨hon, rfl, rfl⟩, ⟨hon, rfl, rfl⟩, ⟨hon, rfl, rfl⟩, ⟨rfl, hon, rfl, rfl⟩, ⟨rfl, hon, rfl, rfl⟩, trivial⟩

/-- From INIT's last writes on. -/
theorem initTail_endsIn {s : State} {linkDown : Bool} (hi : s.irq = .idle) (hon : s.powered = true) (hres : s.regs.reservedZero)
    (hop : s.fgOp = [.seq initTail, .initEnd linkDown]) : endsIn (aloneRun 7 s)
      { s with
        drv := .enabled
        ret := if linkDown then codeLinkDown else codeOk
        pc := s.pc + 1
        fgOp := []
        regs := { s.regs with
          rxFilterCtrl := 0x0026
          intEnable := 0x0088
          intStatus := 0
          command := s.regs.command ||| 0x0003
          mac1 := s.regs.mac1 ||| 0x0001 } }
      id (fun _ => True) := by
  have run := runs_seq (M := (· = s.mem)) (fs := [.initEnd linkDown]) (c := .ret (if linkDown then codeLinkDown else codeOk))
    (inProgram_of_idle hi) (seqAllowed_initTail hon)
    fun u hu => ⟨_, rfl, Reached.setDrv (seqEffect_initTail hres ▸ hu) .enabled⟩
  exact run.endsIn_ret hi hop (by exact hi)

end Sys2Proof.Machine
end

section
/-!
PROOFS. The branches of INIT (spec/43_mac.md R400): what the frames that wait for a result do with it, and the micro-steps that hand
it to them.
-/

namespace Sys2Proof.Machine

/-! ### What INIT's frames do with a result -/

section
variable {v : Word} {mac : List Byte} {mode : Word} (s : State)

/-- BMCR was read, and shows neither RESET nor POWER_DOWN. -/
theorem resume_initPoll_done (left : Nat) (hv : v ≠ codeTimeout) (hb : v &&& 0x8800#32 = 0) :
    resume v [.initPoll mac mode left] s = ({ s with drv := .phyDetect }, .run [.rpMadr 2, .detect1, .initDetected mac mode]) := by
  exact if_pos ⟨hv, hb⟩

section
variable (hv : v = codeTimeout ∨ v &&& 0x8800#32 ≠ 0)
include hv

/-- Otherwise it polls again, … -/
theorem resume_initPoll_again (left : Nat) :
    resume v [.initPoll mac mode (left + 1)] s = (s, .run [.rpMadr 0, .initPoll mac mode left]) := by
  rw [resume]; exact if_neg fun ⟨hne, hb⟩ => hv.elim hne (· hb)

/-- … and gives up after the last poll. -/
theorem resume_initPoll_last :
    resume v [.initPoll mac mode 0] s = ({ s with drv := .phyResetTimeout }, .ret codePhyResetTimeout) := by
  rw [resume, if_neg fun ⟨hne, hb⟩ => hv.elim hne (· hb), resume]

end

theorem resume_initDetected_unknown :
    resume codeUnknownPhy [.initDetected mac mode] s = ({ s with drv := .phyDetectFailed }, .ret codeUnknownPhy) := by
  rw [resume, if_pos (by decide), resume]

theorem resume_initDetected_supported {bmcr : Half} (hb : bmcrValue mode = some bmcr) : resume codeOk [.initDetected mac mode] s =
    ({ s with drv := .phyConfiguring }, .run [.wpMadr 0 bmcr, .setMode, .initMode mac]) := by
  rw [resume, if_neg (not_not.2 rfl), hb]; rfl

theorem resume_initDetected_unsupported (hb : bmcrValue mode = none) :
    resume codeOk [.initDetected mac mode] s = ({ s with drv := .phyConfigFailed }, .ret codeUnsupportedMode) := by
  rw [resume, if_neg (not_not.2 rfl), hb]; rfl

theorem resume_initMode_timeout :
    resume codeTimeout [.initMode mac] s = ({ s with drv := .phyConfigFailed }, .ret codeTimeout) := by
  rw [resume, if_pos (Or.inr rfl), resume]

/-- The speed read of UPDATE_STATUS after a duplex read that timed out, or itself timed out. -/
theorem resume_updSpeed_timeout {d : Word} (h : d = codeTimeout ∨ v = codeTimeout) (fs : List OpFrame) :
    resume v (.updSpeed d :: fs) s = resume codeTimeout fs s := by
  rw [resume, if_pos h]

end

/-! ### The identity and the mode -/

section
variable {id1 v : Word}

/-- Two words that were both read are looked up as one (R355). -/
theorem detectResult_known (hv : v ≠ codeTimeout) (h1 : id1 ≠ codeTimeout)
    (hk : (id1 <<< 16 ||| v) &&& 0xFFFFFFF0 ∈ Config.knownPhyIds) : detectResult id1 v = codeOk := by
  rw [detectResult, if_neg (not_or.2 ⟨h1, hv⟩)]
  exact if_pos hk

theorem detectResult_unknown (h : ¬(id1 ≠ codeTimeout ∧ (id1 <<< 16 ||| v) &&& 0xFFFFFFF0 ∈ Config.knownPhyIds)) :
    detectResult id1 v = codeUnknownPhy := by
  rw [detectResult]
  split
  · rfl
  · rename_i hread
    exact if_neg fun hk => h ⟨fun h1 => hread (Or.inl h1), hk⟩

end

/-- R358's table. -/
theorem bmcrValue_of_table {mode : Word} {bmcr : Half}
    (h : [0x3000#16, 0x0100#16, 0x0000#16, 0x2100#16, 0x2000#16][mode.toNat]? = some bmcr) : bmcrValue mode = some bmcr := by
  obtain ⟨hlt, -⟩ := List.getElem?_eq_some_iff.1 h
  unfold bmcrValue
  generalize mode.toNat = n at h hlt
  change n < 5 at hlt
  interval_cases n <;> exact h

/-! ### The branches -/

/-- The answer of BMCR is a half word. -/
theorem low16_bmcr (w : Word) : w &&& 0xFFFF#32 &&& 0x8800#32 = w &&& 0x8800#32 := and_half w 0x8800

/-- Settles O43: each result reaches the frame of INIT that waits for it; INIT's last part is straight-line. -/
theorem initBranchesAndResult : Obligations.InitBranchesAndResult := by
  refine ⟨fun s mac mode id1 d k left hp => ⟨mindValue s, fun hm => ?_, fun hm => ?_⟩,
    fun s read mac mode id1 left known hp hread hknown => ?_, fun s mac rest hrest => ?_,
    fun s linkDown hi hon hres hop => initTail_endsIn hi hon hres hop⟩
  · exact ⟨fun hop => continueOp_next hop (microStep_wpPoll_idle _ hp k hm),
      fun hop => continueOp_next hop (microStep_wpPoll_idle _ hp k hm)⟩
  · have rp {fs : List OpFrame} (hop : curOp s = .rpPoll 0 :: fs) := continueOp_next hop (isPoll_rpPoll s fs hp hm).1
    have wp {fs : List OpFrame} (hop : curOp s = .wpPoll 0 :: fs) := continueOp_next hop (isPoll_wpPoll s fs hp hm).1
    refine ⟨fun hop => wp hop, fun hop => ?_, fun hop => ?_, fun hop => rp hop, fun hop => ?_, fun hop => ?_, fun hop => ?_⟩
    · rw [rp hop, resume_initPoll_again _ (Or.inl rfl)]; rfl
    · rw [rp hop, resume_initPoll_last _ (Or.inl rfl)]; rfl
    · rw [rp hop, resume, detectResult_timeout, resume_initDetected_unknown]; rfl
    · rw [wp hop, resume, if_pos rfl, resume_initMode_timeout]; rfl
    · rw [rp hop, resume_status_timeout, resume_updSpeed_timeout _ (Or.inr rfl), resume_initMode_timeout]; rfl
  · subst hread
    have data {fs : List OpFrame} (hop : curOp s = .rpData :: fs) := continueOp_next hop (microStep_rpData fs hp)
    have hv : s.regs.mrdd &&& 0xFFFF#32 ≠ codeTimeout := and_low16_ne_timeout s.regs.mrdd
    refine ⟨fun hb hop => ?_, fun hb => ⟨fun hop => ?_, fun hop => ?_⟩, fun hop => data hop, fun hop => ⟨fun hk => ?_,
      fun hk bmcr hbmcr => ?_, fun hk hmode => ?_⟩, fun hop => ?_⟩
    · rw [data hop, resume_initPoll_done _ _ hv ((low16_bmcr _).trans hb)]; rfl
    · rw [data hop, resume_initPoll_again _ (Or.inr ((low16_bmcr _).trans_ne hb))]; rfl
    · rw [data hop, resume_initPoll_last _ (Or.inr ((low16_bmcr _).trans_ne hb))]; rfl
    · rw [data hop, resume, detectResult_unknown (v := s.regs.mrdd &&& 0xFFFF#32) (hknown.not.1 hk), resume_initDetected_unknown]; rfl
    · obtain ⟨h1, hid⟩ := hknown.1 hk
      rw [data hop, resume, detectResult_known hv h1 hid, resume_initDetected_supported _ (bmcrValue_of_table hbmcr)]; rfl
    · obtain ⟨h1, hid⟩ := hknown.1 hk
      rw [data hop, resume, detectResult_known hv h1 hid,
        resume_initDetected_unsupported _ (bmcrValue_eq_none_iff.2 (not_le.2 hmode))]; rfl
    · rw [data hop, resume, resume_updSpeed_timeout _ (d := 0xFFFFFFFF) (Or.inl rfl), resume_initMode_timeout]; rfl
  · refine ⟨fun hop => ?_, fun v hp hop => ?_⟩
    · rw [hrest]
      exact continueOp_next hop rfl
    · rw [hrest]
      exact (continueOp_next hop (doWrite_eq (seqRest [] [.linkUp, .initMode mac]) hp rfl rfl)).trans rfl

end Sys2Proof.Machine
end

section
/-!
PROOFS. The dispatcher (spec/44_dispatch.md): which slot SETUP_CALLBACK writes, what each step of DISPATCH does on a powered block,
which callback runs next, and the run that serves two callbacks.
-/

namespace Sys2Proof.Machine

/-! ### Registration (R450, R451) -/

/-- The ten bits in the order of the ordinals. -/
theorem ordinalBits_getElem? (n : Fin 10) : [0, 1, 2, 3, 4, 5, 6, 7, 12, 13][n.val]? = some (bitOf n) := by
  revert n; decide

theorem maskOrdinal_eq_find? (m : Word) : maskOrdinal m = Fin.find? fun n => m.getLsbD (bitOf n) :=
  Fin.find?_eq_find?_finRange.symm

theorem maskOrdinal_eq_some_iff {m : Word} {n : Fin 10} : maskOrdinal m = some n ↔
    m.getLsbD (bitOf n) = true ∧ ∀ k < n, m.getLsbD (bitOf k) = false := by
  rw [maskOrdinal_eq_find?, Fin.find?_eq_some_iff]

theorem maskOrdinal_eq_none_iff {m : Word} : maskOrdinal m = none ↔ ∀ n, m.getLsbD (bitOf n) = false := by
  rw [maskOrdinal_eq_find?, Fin.find?_eq_none_iff]

section
variable {s : State} {mask : Word} (fn : Option CallbackId) (hi : s.irq = .idle)
include hi

theorem exec_setupCallback_none (h : maskOrdinal mask = none) :
    exec (.setupCallback mask fn) s = .next { s with ret := 0, pc := s.pc + 1, fgOp := [] } := by
  change execSetupCallback mask fn s = _
  rw [execSetupCallback, if_neg (not_not.2 hi), h, ← finish_fg hi]

theorem exec_setupCallback_some {n : Fin 10} (h : maskOrdinal mask = some n) : exec (.setupCallback mask fn) s =
    .next { s with cb := s.cb.set n fn, ret := 0, pc := s.pc + 1, fgOp := [] } := by
  change execSetupCallback mask fn s = _
  rw [execSetupCallback, if_neg (not_not.2 hi), h]
  exact congrArg Host.Outcome.next (finish_fg (s := { s with cb := s.cb.set n fn }) hi 0)

end

/-- Settles O45: the slot is that of R451's first matching ordinal. -/
theorem callbackRegistration : Obligations.CallbackRegistration := by
  rintro s mask fn bits hi rfl
  refine ⟨fun n b hb hbit hbefore => ?_, fun hnone => ?_⟩
  · obtain rfl : bitOf n = b := Option.some.inj ((ordinalBits_getElem? n).symm.trans hb)
    have hfirst : maskOrdinal mask = some n :=
      maskOrdinal_eq_some_iff.2 ⟨hbit, fun k hk => hbefore k _ hk (ordinalBits_getElem? k)⟩
    refine ⟨s.cb.set n fn, exec_setupCallback_some fn hi hfirst, fun k => ?_⟩
    simp [Vector.getElem_set, Fin.ext_iff, eq_comm]
  · exact exec_setupCallback_none fn hi
      (maskOrdinal_eq_none_iff.2 fun n => hnone _ (List.mem_of_getElem? (ordinalBits_getElem? n)))

/-! ### The bus steps (R453, R455, R457) -/

section
variable {s : State} (hp : s.powered = true)
include hp

theorem thenRead_eq {r : Reg} (k : Word → State → State) (hr : regWriteOnly r = false) :
    thenRead (busRead r s) k = .next (k (readReg r s) (readLogged r (readReg r s) s)) := by
  rw [busRead_eq hp hr]; rfl

theorem thenWrite_eq {r : Reg} (v : Word) (k : State → State) (hr : regReadOnly r = false) (hc : writeCheck r v s = none)
    (h1 : r ≠ .mwtd) (h2 : r ≠ .mcmd) (h3 : r ≠ .command) :
    thenWrite (busWrite r v s) k = .next (k (writeLogged r v (writeRegs r v s.regs) s)) := by
  rw [busWrite_eq hp hr hc, writeEffect_plain v s h1 h2 h3]; rfl

theorem exec_dispatch_start {st : Word} (h : s.irq = .running st .start) :
    exec .dispatch s = .next { readLogged .intStatus s.regs.intStatus s with
      irq := .running st (.readEnable s.regs.intStatus) } := by
  change execDispatch s = _
  rw [execDispatch, h]
  exact thenRead_eq hp _ rfl

theorem irqStep_readEnable {st v : Word} (h : s.irq = .running st (.readEnable v)) :
    irqStep s = .next ((readLogged .intEnable s.regs.intEnable s).setIrq (v &&& s.regs.intEnable)
      (if v &&& s.regs.intEnable = 0 then .done else .clear)) := by
  rw [irqStep, h]
  exact thenRead_eq hp _ rfl

theorem irqStep_clear {st : Word} (h : s.irq = .running st .clear) :
    irqStep s = .next (scan batchOrdinals st (writeLogged .intClear st
      { s.regs with intStatus := s.regs.intStatus &&& ~~~(st &&& 0x000030FF) } s)) := by
  rw [irqStep, h, ← intDefinedMask_eq]
  exact thenWrite_eq hp _ _ rfl rfl nofun nofun nofun

theorem irqStep_wolClear {st : Word} (h : s.irq = .running st .wolClear) :
    irqStep s = .next (enterWake st (writeLogged .rxFilterWoLClear 0x000001BF
      { s.regs with rxFilterWoLStatus := s.regs.rxFilterWoLStatus &&& ~~~0x000001BF#32 } s)) := by
  rw [irqStep, h]
  exact thenWrite_eq hp _ _ rfl rfl nofun nofun nofun

end

section
variable {s : State} {st : Word}

theorem irqStep_start (h : s.irq = .running st .start) : irqStep s = exec .dispatch s := by
  rw [irqStep, h]; rfl

theorem irqStep_done (h : s.irq = .running st .done) : irqStep s = .next { s with irq := .idle } := by
  rw [irqStep, h]; rfl

end

/-- Settles O47: one lemma per position of DISPATCH. -/
theorem dispatchSteps : Obligations.DispatchSteps := by
  rintro s st v e hp rfl
  refine ⟨fun h => ⟨exec_dispatch_start hp h, irqStep_start h⟩, fun h => ⟨fun hz => ?_, fun hnz => ?_⟩,
    irqStep_clear hp, irqStep_wolClear hp, irqStep_done⟩
  · rw [irqStep_readEnable hp h, if_pos hz]; rfl
  · rw [irqStep_readEnable hp h, if_neg hnz]; rfl

/-! ### Which callback runs next (R453, R456, R609) -/

/-- An ordinal outside the batch, or without a callback, is passed over. -/
def Skipped (st : Word) (s : State) (n : Fin 10) : Prop := st.getLsbD (bitOf n) = true → s.cb[n] = none

theorem scan_skipped {st : Word} {s : State} {ns : List (Fin 10)} (h : ∀ n ∈ ns, Skipped st s n) (ms : List (Fin 10)) :
    scan (ns ++ ms) st s = scan ms st s := by
  induction ns with
  | nil => rfl
  | cons n ns ih =>
    obtain ⟨hn, hns⟩ := List.forall_mem_cons.1 h
    rw [List.cons_append, scan]
    split
    · rw [hn ‹_›]; exact ih hns
    · exact ih hns

theorem scan_invokes {st : Word} {s : State} {n : Fin 10} {id : CallbackId} (hb : st.getLsbD (bitOf n) = true)
    (hc : s.cb[n] = some id) (ns : List (Fin 10)) : scan (n :: ns) st s =
      if bodyOf s id = [] then scan ns st (s.log (.invoke n id)) else (s.log (.invoke n id)).setIrq st (.body n id 0 []) := by
  rw [scan, if_pos hb, hc]

theorem leaveBody_batch {n : Fin 10} (h : n ≠ 9) (st : Word) (s : State) :
    leaveBody st n s = scan (batchOrdinals.filter (n < ·)) st s := if_neg h

theorem scan_exhausted {st : Word} {s : State} {ns : List (Fin 10)} (h : ∀ n ∈ ns, Skipped st s n) :
    scan ns st s = s.setIrq st (if st.getLsbD 13 then .wolClear else .start) := by
  rw [← List.append_nil ns, scan_skipped h, scan, apply_ite (fun p => s.setIrq st p)]; rfl

theorem leaveBody_exhausted {st : Word} {s : State} {n : Fin 10} (h9 : n ≠ 9)
    (h : ∀ j ∈ batchOrdinals.filter (n < ·), Skipped st s j) :
    leaveBody st n s = s.setIrq st (if st.getLsbD 13 then .wolClear else .start) := by
  rw [leaveBody_batch h9, scan_exhausted h]

theorem enterWake_invokes {st : Word} {s : State} {id : CallbackId} (hc : s.cb[(9 : Fin 10)] = some id) : enterWake st s =
    if bodyOf s id = [] then (s.log (.invoke 9 id)).setIrq st .start
    else (s.log (.invoke 9 id)).setIrq st (.body 9 id 0 []) := by
  rw [enterWake, hc]

/-- The ordinals still to be looked at: those after the one just served, if any. -/
def remaining (after : Option (Fin 10)) : List (Fin 10) := batchOrdinals.filter fun k => ∀ n, after = some n → n < k

theorem mem_remaining {after : Option (Fin 10)} {k : Fin 10} :
    k ∈ remaining after ↔ (∀ n, after = some n → n < k) ∧ k ≠ 9 := by
  revert after k; decide

/-- They are looked at in order. -/
theorem remaining_split {after : Option (Fin 10)} {k : Fin 10} (h : k ∈ remaining after) :
    remaining after = (remaining after).filter (· < k) ++ k :: batchOrdinals.filter (k < ·) := by
  revert after k; decide

/-- Settles O48: `scan` passes over the ordinals that are not served, up to the first one that is or to the wake-up bit. -/
theorem dispatchOrder : Obligations.DispatchOrder := by
  intro s st after go hgo
  have hscan : go s = scan (remaining after) st s := by
    obtain ⟨rfl, rfl⟩ | ⟨n, rfl, hn, rfl⟩ := hgo
    · rfl
    · simp [leaveBody_batch hn, remaining]
  refine ⟨fun k id hk h9 hbit hcb hbefore => ?_, fun hnone => ?_, rfl, fun hcb => ?_, fun id hcb => ?_⟩
  · have hskip : ∀ j ∈ (remaining after).filter (· < k), Skipped st s j := fun j hj hb => by
      obtain ⟨hmem, hlt⟩ := List.mem_filter.1 hj
      exact hbefore j (mem_remaining.1 hmem).1 (by simpa using hlt) hb
    rw [hscan, remaining_split (mem_remaining.2 ⟨hk, h9⟩), scan_skipped hskip, scan_invokes hbit hcb]
    exact ⟨fun hbody => if_neg hbody, fun hbody => (if_pos hbody).trans (leaveBody_batch h9 _ _).symm⟩
  · have hend : go s = s.setIrq st (if st.getLsbD 13 then .wolClear else .start) := by
      rw [hscan, scan_exhausted]
      intro j hj
      obtain ⟨hafter, h9⟩ := mem_remaining.1 hj
      exact hnone j hafter h9
    exact ⟨fun hw => by rw [hend, if_pos hw]; rfl, fun hw => by rw [hend, hw]; rfl⟩
  · rw [enterWake, hcb]; rfl
  · rw [enterWake_invokes hcb]
    exact ⟨fun hbody => if_neg hbody, fun hbody => if_pos hbody⟩

/-! ### The run that serves two callbacks (R459) -/

theorem irqRun_succ_last (k : Nat) (s : State) :
    irqRun (k + 1) s = andThen (irqRun k s) fun t => irqStep (passTurn t) := by
  induction k generalizing s with
  | zero =>
    change andThen _ _ = irqStep (passTurn s)
    cases irqStep (passTurn s) <;> rfl
  | succ k ih =>
    rw [irqRun]
    conv_rhs => rw [irqRun]
    cases irqStep (passTurn s) with
    | next t => exact ih t
    | fault f => rfl
    | refused r => rfl

/-- `s` at another place in the schedule, with the interrupt context at `q`, the registers `r` and the history `h`. -/
def State.servedTo (s : State) (tn : Turn) (n : Nat) (q : Irq) (r : Regs) (h : List Event) : State :=
  { s with turn := tn, tick := n, irq := q, regs := r, hist := h }

/-- `k` IRQ steps change nothing else of `s`. -/
def Serves (s : State) (k : Nat) (q : Irq) (r : Regs) (h : List Event) : Prop :=
  ∃ (tn : Turn) (n : Nat), irqRun k s = .next (s.servedTo tn n q r h)

theorem Serves.step {s : State} {k : Nat} {q q' : Irq} {r r' : Regs} {h h' : List Event} (hs : Serves s k q r h)
    (hstep : ∀ (tn : Turn) (n : Nat), irqStep (s.servedTo tn n q r h) = .next (s.servedTo tn n q' r' h')) :
    Serves s (k + 1) q' r' h' := by
  obtain ⟨tn, n, hk⟩ := hs
  refine ⟨Config.sched n, n + 1, ?_⟩
  rw [irqRun_succ_last, hk]
  exact hstep _ _

/-- A body that is one HALT. -/
theorem irqStep_haltBody {s : State} {st : Word} {n : Fin 10} {id : CallbackId} (hi : s.irq = .running st (.body n id 0 []))
    (hb : bodyOf s id = [⟨0x40000063, []⟩]) : irqStep s = .next (leaveBody st n s) := by
  have hline : curLine s = some ⟨0x40000063, []⟩ := by simp [curLine, curProg, curPc, hi, hb]
  have hop : curOp s = [] := by simp [curOp, hi]
  have hrun : runLine ⟨0x40000063, []⟩ s = .next (haltAgent s) := rfl
  rw [irqStep, hi]
  change contextStep s = _
  rw [contextStep, hop, hline]
  change runLine _ s = _
  rw [hrun, haltAgent, hi]

section
variable {s : State} {k : Nat} {st v : Word} {id : CallbackId} {r : Regs} {h : List Event}

theorem serves_entry (hi : s.irq = .idle) (hl : irqLine s = true) : Serves s 1 (.running 0 .start) s.regs s.hist := by
  have hstart : Serves s 0 .idle s.regs s.hist := ⟨s.turn, s.tick, by rw [← hi]; rfl⟩
  exact hstart.step fun tn n => congrArg Host.Outcome.next (if_pos hl)

theorem Serves.haltBody {n : Fin 10} {pos : IrqPos} (hs : Serves s k (.running st (.body n id 0 [])) r h)
    (hb : bodyOf s id = [⟨0x40000063, []⟩]) (hl : ∀ u : State, u.cb = s.cb → leaveBody st n u = u.setIrq st pos) :
    Serves s (k + 1) (.running st pos) r h :=
  hs.step fun tn i => (irqStep_haltBody (s := s.servedTo tn i _ _ _) rfl hb).trans (congrArg Host.Outcome.next (hl _ rfl))

theorem Serves.done (hs : Serves s k (.running st .done) r h) : Serves s (k + 1) .idle r h :=
  hs.step fun tn n => irqStep_done (s := s.servedTo tn n _ _ _) rfl

variable (hp : s.powered = true)
include hp

/-- The head of the loop: the two reads, then the batch or the return. -/
theorem Serves.reads (hs : Serves s k (.running st .start) r h) (hv : r.intStatus &&& r.intEnable = v) :
    Serves s (k + 2) (.running v (if v = 0 then .done else .clear)) r
      (.bus .irq 0xFE4 .read r.intEnable :: .bus .irq 0xFE0 .read r.intStatus :: h) := by
  subst hv
  have hread : Serves s (k + 1) (.running st (.readEnable r.intStatus)) r (.bus .irq 0xFE0 .read r.intStatus :: h) :=
    hs.step fun tn n => (irqStep_start rfl).trans (exec_dispatch_start (s := s.servedTo tn n _ _ _) hp rfl)
  exact hread.step fun tn n => irqStep_readEnable (s := s.servedTo tn n _ _ _) hp rfl

/-- The clear of a batch with bit 0 goes on to the callback of ordinal 0. -/
theorem Serves.clear (hs : Serves s k (.running st .clear) r h) (hb : st.getLsbD (bitOf 0) = true)
    (hc : s.cb[(0 : Fin 10)] = some id) (hbody : bodyOf s id ≠ []) :
    Serves s (k + 1) (.running st (.body 0 id 0 [])) { r with intStatus := r.intStatus &&& ~~~(st &&& 0x000030FF) }
      (.invoke 0 id :: .bus .irq 0xFE8 .write st :: h) :=
  hs.step fun tn n => (irqStep_clear (s := s.servedTo tn n _ _ _) hp rfl).trans
    (congrArg Host.Outcome.next ((scan_invokes (s := writeLogged _ _ _ (s.servedTo tn n _ _ _)) hb hc _).trans (if_neg hbody)))

/-- The wake clear goes on to the callback of ordinal 9. -/
theorem Serves.wolClear (hs : Serves s k (.running st .wolClear) r h) (hc : s.cb[(9 : Fin 10)] = some id)
    (hbody : bodyOf s id ≠ []) :
    Serves s (k + 1) (.running st (.body 9 id 0 []))
      { r with rxFilterWoLStatus := r.rxFilterWoLStatus &&& ~~~0x000001BF#32 }
      (.invoke 9 id :: .bus .irq 0x208 .write 0x000001BF :: h) :=
  hs.step fun tn n => (irqStep_wolClear (s := s.servedTo tn n _ _ _) hp rfl).trans
    (congrArg Host.Outcome.next ((enterWake_invokes (s := writeLogged _ _ _ (s.servedTo tn n _ _ _)) hc).trans (if_neg hbody)))

end

/-- Settles O49: the ten steps, one by one. -/
theorem dispatchServesBothCallbacks : Obligations.DispatchServesBothCallbacks := by
  rintro s a b e hi hp hst rfl hen hcb ha hb
  have hcb0 : s.cb[(0 : Fin 10)] = some a := hcb 0
  have hcb9 : s.cb[(9 : Fin 10)] = some b := hcb 9
  have hunset : ∀ j ∈ batchOrdinals.filter ((0 : Fin 10) < ·), s.cb[j] = none := fun j hj => by
    obtain ⟨h0, h9⟩ : j ≠ 0 ∧ j ≠ 9 := by revert j; decide
    rw [hcb, if_neg h0, if_neg h9]
  have hbatch : s.regs.intStatus &&& s.regs.intEnable = 0x00002009 := by rw [hst, BitVec.and_comm]; exact hen
  have hline : irqLine s = true := by rw [irqLine, hp, hbatch]; decide
  have hzero : s.regs.intStatus &&& ~~~((0x00002009 : Word) &&& 0x000030FF) = 0 := by rw [hst]; decide
  have hbody {id : CallbackId} (h : bodyOf s id = [⟨0x40000063, []⟩]) : bodyOf s id ≠ [] := h.trans_ne (List.cons_ne_nil _ _)
  have batch : Serves s 3 (.running 0x00002009 .clear) _ _ := (serves_entry hi hline).reads hp hbatch
  have first : Serves s 4 (.running 0x00002009 (.body 0 a 0 [])) _ _ := batch.clear hp (by decide) hcb0 (hbody ha)
  rw [hzero] at first
  have wake : Serves s 5 (.running 0x00002009 .wolClear) _ _ := first.haltBody ha fun u hu =>
    leaveBody_exhausted (by decide) fun j hj _ => by rw [hu]; exact hunset j hj
  have second : Serves s 6 (.running 0x00002009 (.body 9 b 0 [])) _ _ := wake.wolClear hp hcb9 (hbody hb)
  have again : Serves s 7 (.running 0x00002009 .start) _ _ := second.haltBody hb fun _ _ => rfl
  have last : Serves s 9 (.running 0 .done) _ _ := again.reads hp (v := 0) (BitVec.zero_and ..)
  obtain ⟨tn, n, hrun⟩ := last.done
  refine ⟨tn, n, hrun.trans ?_⟩
  rw [hst, ← hi]
  rfl

end Sys2Proof.Machine
end

section
/-!
PROOFS. The CRC engine (spec/45_crc.md): a bit-step is linear over GF(2), four of them are a nibble-step, and the named variants
compute the same register in another bit order.
-/

namespace Sys2Proof.Machine

/-! ### The bit-step -/

/-- The polynomial selected by a sum of feedback bits is the sum of the selections. -/
theorem ite_xor_zero (p : Word) (f g : Bool) :
    (if f ^^ g then p else 0#32) = (if f then p else 0#32) ^^^ (if g then p else 0#32) := by
  cases f <;> cases g <;> simp

theorem crcBit_xor (a b : Word) (d e : Bool) : crcBit (a ^^^ b) (d ^^ e) = crcBit a d ^^^ crcBit b e := by
  simp only [crcBit, BitVec.shiftLeft_xor_distrib, BitVec.getLsbD_xor, ite_xor_zero]
  ac_rfl

theorem crcByte_xor (a b : Word) (x y : Byte) : crcByte (a ^^^ b) (x ^^^ y) = crcByte a x ^^^ crcByte b y :=
  List.foldl_hom₂ _ (· ^^^ ·) _ _ _ a b fun a b j => by rw [BitVec.getLsbD_xor, crcBit_xor]

/-- R484: lists of one length, from any two start values. -/
theorem foldl_crcByte_xor {x y : List Byte} (h : x.length = y.length) (a b : Word) :
    (List.zipWith (· ^^^ ·) x y).foldl crcByte (a ^^^ b) = x.foldl crcByte a ^^^ y.foldl crcByte b := by
  induction x generalizing y a b with
  | nil => rw [List.length_eq_zero_iff.1 h.symm]; rfl
  | cons u x ih =>
    obtain _ | ⟨v, y⟩ := y
    · cases h
    · simp only [List.zipWith_cons_cons, List.foldl_cons, crcByte_xor]
      exact ih (Nat.succ.inj h) _ _

theorem zipWith_xor_zeros {n : Nat} {x : List Byte} (h : x.length = n) :
    List.zipWith (· ^^^ ·) x (List.replicate n 0#8) = x := by
  subst h
  induction x with
  | nil => rfl
  | cons u x ih => rw [List.length_cons, List.replicate_succ, List.zipWith_cons_cons, ih, BitVec.xor_zero]

/-- Settles O22: the right-hand side runs over the sum of the three lists, from the sum of the three start values. -/
theorem crcAffinity : Obligations.CrcAffinity := by
  refine ⟨fun x y h => ?_, fun d e => List.foldl_append⟩
  have hlen : (List.zipWith (· ^^^ ·) x y).length = x.length := by rw [List.length_zipWith, ← h, Nat.min_self]
  have hzeros : (List.zipWith (· ^^^ ·) x y).length = (List.replicate x.length 0#8).length := by
    rw [List.length_replicate, hlen]
  have hones : 0xFFFFFFFF#32 ^^^ 0xFFFFFFFF#32 ^^^ 0xFFFFFFFF#32 = 0xFFFFFFFF#32 := by decide
  simp only [crc32]
  rw [← foldl_crcByte_xor h, ← foldl_crcByte_xor hzeros, zipWith_xor_zeros hlen, hones]

/-! ### The nibble form (R481) -/

/-- Bits 31 to 29 of the polynomial are 0, so a feedback never reaches the bits that the next three steps feed back. -/
theorem crcBit_getLsbD_top (c : Word) (d : Bool) {i : Nat} (h : 28 < i) (hi : i < 32) :
    (crcBit c d).getLsbD i = c.getLsbD (i - 1) := by
  have hpoly : (if c.getLsbD 31 ^^ d then 0x04C11DB7#32 else 0#32).getLsbD i = false := by
    obtain rfl | rfl | rfl : i = 29 ∨ i = 30 ∨ i = 31 := by omega
    all_goals split <;> decide
  have hshift : (c <<< 1).getLsbD i = c.getLsbD (i - 1) := by
    rw [BitVec.getLsbD_shiftLeft, decide_eq_true hi, decide_eq_false (by omega : ¬i < 1)]; rfl
  rw [crcBit, BitVec.getLsbD_xor, hpoly, hshift, Bool.xor_false]

theorem ite_shiftLeft (p : Word) (f : Bool) (n : Nat) :
    (if f then p else 0#32) <<< n = if f then p <<< n else 0#32 := by
  cases f <;> simp

/-- R481's argument: every step feeds back a bit of the register before the nibble, and a feedback of step `i` is shifted by the
`3 - i` steps after it. -/
theorem crcNibble_eq_foldl_crcBit (c : Word) (b : BitVec 4) :
    [0, 1, 2, 3].foldl (fun acc j => crcBit acc (b.getLsbD j)) c = crcNibble c b := by
  have hbit (c : Word) (d : Bool) : crcBit c d = (c <<< 1) ^^^ (if c.getLsbD 31 ^^ d then 0x04C11DB7#32 else 0#32) := rfl
  change crcBit (crcBit (crcBit (crcBit c (b.getLsbD 0)) (b.getLsbD 1)) (b.getLsbD 2)) (b.getLsbD 3) = _
  simp (disch := decide) only [↓crcBit_getLsbD_top, ↓hbit]
  simp only [BitVec.shiftLeft_xor_distrib, ite_shiftLeft, ← BitVec.shiftLeft_add, crcNibble]
  simp only [Nat.reduceSub, Nat.reduceAdd, BitVec.reduceHShiftLeft]
  ac_rfl

theorem crcByte_eq_crcByteNibbles : crcByte = crcByteNibbles := by
  funext c b
  have hlow (j : Nat) (h : j < 4) : (b.extractLsb' 0 4).getLsbD j = b.getLsbD j := by
    rw [BitVec.getLsbD_extractLsb', decide_eq_true h, Nat.zero_add, Bool.true_and]
  have hhigh (j : Nat) (h : j < 4) : (b.extractLsb' 4 4).getLsbD j = b.getLsbD (4 + j) := by
    rw [BitVec.getLsbD_extractLsb', decide_eq_true h, Bool.true_and]
  rw [crcByteNibbles, ← crcNibble_eq_foldl_crcBit, ← crcNibble_eq_foldl_crcBit]
  simp (disch := decide) only [crcByte, List.foldl_cons, List.foldl_nil, hlow, hhigh]

/-- Settles O21: byte by byte, the bit-steps are two nibble-steps. -/
theorem crc32NibbleForm : Obligations.Crc32NibbleForm := by
  intro data s c hc
  have hcrc : c = crc32 data := hc
  subst hcrc
  refine ⟨?_, rfl, fun h => ?_⟩
  · rw [crc32, crcByte_eq_crcByteNibbles]
  · exact congrArg Host.Outcome.next (finish_fg h _)

/-! ### The reflected CRC-32 (R483) -/

theorem reverse_xor {w : Nat} (x y : BitVec w) : (x ^^^ y).reverse = x.reverse ^^^ y.reverse :=
  BitVec.eq_of_getLsbD_eq fun i _ => by simp only [BitVec.getLsbD_reverse, BitVec.getLsbD_xor, BitVec.getMsbD_xor]

theorem reverse_ushiftRight {w : Nat} (x : BitVec w) (n : Nat) : (x >>> n).reverse = x.reverse <<< n :=
  BitVec.eq_of_getLsbD_eq fun i h => by
    rw [BitVec.getLsbD_reverse, BitVec.getMsbD_ushiftRight, BitVec.getLsbD_shiftLeft, BitVec.getLsbD_reverse,
      Bool.and_assoc]

/-- The reflected polynomial is the polynomial read backwards. -/
theorem crcBit_reverse (c : Word) (d : Bool) : crcBit c.reverse d = (reflectedBit c d).reverse := by
  have hpoly (f : Bool) : (if f then 0xEDB88320#32 else 0#32).reverse = if f then 0x04C11DB7#32 else 0#32 := by
    cases f
    · exact BitVec.reverse_eq_zero_iff.2 rfl
    · decide +kernel
  have htop : c.reverse.getLsbD 31 = c.getLsbD 0 := BitVec.getLsbD_reverse
  rw [crcBit, reflectedBit, reverse_xor, reverse_ushiftRight, hpoly, htop]

theorem crc32_eq_reverse_crcZlib (d : List Byte) : crc32 d = (~~~(crcZlib d)).reverse := by
  have hones : (0xFFFFFFFF#32).reverse = 0xFFFFFFFF#32 := by decide +kernel
  rw [crcZlib, BitVec.not_not, crc32, ← List.foldl_hom BitVec.reverse (g₂ := crcByte), hones]
  exact fun c b => List.foldl_hom BitVec.reverse fun c j => crcBit_reverse c (b.getLsbD j)

/-! ### CRC-32/MPEG-2 (R483) -/

/-- A bit that already stands at the top of the register is a data bit, and the bits below it move up. -/
theorem mpegBit_xor (c x : Word) : mpegBit (c ^^^ x) = crcBit c (x.getLsbD 31) ^^^ (x <<< 1) := by
  rw [mpegBit, crcBit, BitVec.shiftLeft_xor_distrib, BitVec.getLsbD_xor]
  ac_rfl

/-- After `n` steps the first `n` bits of `x`, from the top, have gone in as data. -/
theorem foldl_mpegBit_xor (c x : Word) {n : Nat} (h : n ≤ 32) :
    (List.range n).foldl (fun acc _ => mpegBit acc) (c ^^^ x) =
      (List.range n).foldl (fun acc j => crcBit acc (x.getLsbD (31 - j))) c ^^^ (x <<< n) := by
  induction n with
  | zero => rw [BitVec.shiftLeft_zero]; rfl
  | succ n ih =>
    have htop : (x <<< n).getLsbD 31 = x.getLsbD (31 - n) := by
      rw [BitVec.getLsbD_shiftLeft, decide_eq_false (by omega : ¬31 < n)]; rfl
    simp only [List.range_succ, List.foldl_append, List.foldl_cons, List.foldl_nil]
    rw [ih (by omega), mpegBit_xor, htop, BitVec.shiftLeft_add]

/-- A reversed byte at the top of the register shows its bits in the order of R480. -/
theorem getLsbD_reversedByte (b : Byte) {j : Nat} (h : j < 8) :
    (BitVec.setWidth 32 b.reverse <<< 24).getLsbD (31 - j) = b.getLsbD j := by
  have htop : 31 - j = 24 + (7 - j) := by omega
  have hbit : 7 - (7 - j) = j := by omega
  have hlt : 24 + (7 - j) < 32 ∧ 7 - j < 32 ∧ 7 - j < 8 := by omega
  rw [htop, BitVec.getLsbD_shiftLeft, BitVec.getLsbD_setWidth, BitVec.getLsbD_reverse, BitVec.getMsbD_eq_getLsbD]
  simp [hbit, hlt]

theorem crcByte_eq_foldl_mpegBit (c : Word) (b : Byte) :
    crcByte c b = (List.range 8).foldl (fun acc _ => mpegBit acc) (c ^^^ (BitVec.setWidth 32 b.reverse <<< 24)) := by
  have hgone : (BitVec.setWidth 32 b.reverse <<< 24) <<< 8 = 0#32 := by
    rw [← BitVec.shiftLeft_add, BitVec.shiftLeft_eq_zero (by decide)]
  rw [foldl_mpegBit_xor c _ (by decide), hgone, BitVec.xor_zero]
  exact List.foldl_ext _ _ _ fun acc j hj => by rw [getLsbD_reversedByte b (List.mem_range.1 hj)]

theorem crc32_eq_crcMpeg2 (d : List Byte) : crc32 d = crcMpeg2 (d.map BitVec.reverse) := by
  rw [crcMpeg2, List.foldl_map]
  exact List.foldl_ext _ _ _ fun c b _ => crcByte_eq_foldl_mpegBit c b

/-- Settles O23: the two variants, bit order by bit order. -/
theorem crcNamedVariants : Obligations.CrcNamedVariants :=
  fun d => ⟨crc32_eq_reverse_crcZlib d, crc32_eq_crcMpeg2 d⟩

end Sys2Proof.Machine
end

section
/-!
PROOFS. The hardware agents (spec/46_agents.md): the management cycle and the wake step (R520, R521, R532), a transmission (R510 to
R512), and reception: the filter, the loss at a full ring and the deposit of one fragment (R500 to R505).
-/

namespace Sys2Proof.Machine

/-! ### The management cycle and the wake step (R520, R521, R532) -/

theorem miiStep_unpowered {s : State} (h : s.powered = false) : miiStep s = s := if_pos h

/-- The enabled wake bits: bit 8 by MAGIC_PACKET_EN_WOL, bits 0 to 5 and 7 by RX_FILTER_EN_WOL. -/
theorem wakeMask_getLsbD (rfc : Word) {b : Nat} (hb : b < 9) : (wakeMask rfc).getLsbD b =
    decide (b = 8 ∧ rfc.getLsbD 12 = true ∨ (b < 6 ∨ b = 7) ∧ rfc.getLsbD 13 = true) := by
  have table : ∀ (x y : Bool) (b : Fin 9),
      ((if x then 0x00000100#32 else 0#32) ||| (if y then 0x000000BF#32 else 0#32)).getLsbD b =
        decide (b.val = 8 ∧ x = true ∨ (b.val < 6 ∨ b.val = 7) ∧ y = true) := by decide
  exact table _ _ ⟨b, hb⟩

theorem wakeBits_getLsbD (draw : BitVec 9) (s : State) (b : Nat) : (wakeBits draw s).getLsbD b =
    (decide (b < 9) && draw.getLsbD b && decide (b = 8 ∧ s.regs.rxFilterCtrl.getLsbD 12 = true ∨
      (b < 6 ∨ b = 7) ∧ s.regs.rxFilterCtrl.getLsbD 13 = true)) := by
  rw [wakeBits, BitVec.getLsbD_and, BitVec.getLsbD_setWidth]
  by_cases hb : b < 9
  · rw [wakeMask_getLsbD _ hb, decide_eq_true hb, decide_eq_true (by omega : b < 32)]
  · rw [BitVec.getLsbD_of_ge draw b (by omega), decide_eq_false hb, Bool.and_false, Bool.false_and, Bool.false_and, Bool.false_and]

theorem wakeStep_raises {draw : BitVec 9} {s : State} (hp : s.powered = true) (hw : wakeBits draw s ≠ 0) :
    wakeStep draw s = { s with regs := { s.regs with
      rxFilterWoLStatus := s.regs.rxFilterWoLStatus ||| wakeBits draw s
      intStatus := s.regs.intStatus ||| 0x00002000 } } := by
  have hc : (s.powered && wakeBits draw s != 0#32) = true := Bool.and_eq_true_iff.2 ⟨hp, bne_iff_ne.2 hw⟩
  exact if_pos hc

theorem wakeStep_none {draw : BitVec 9} {s : State} (h : s.powered = false ∨ wakeBits draw s = 0) : wakeStep draw s = s := by
  refine if_neg fun hc => ?_
  obtain ⟨hp, hw⟩ := Bool.and_eq_true_iff.1 hc
  rcases h with h | h
  · exact Bool.false_ne_true (h.symm.trans hp)
  · exact bne_iff_ne.1 hw h

/-- Settles O54: the completions of both cycles; the set of wake bits is determined by its bits. -/
theorem miiAndWakeSteps : Obligations.MiiAndWakeSteps := by
  refine fun s => ⟨fun phy reg data hp hm => miiStep_write hp hm, fun phy reg v hp hm hv => ?_, fun h => ?_, fun draw S hS => ?_⟩
  · subst hv
    exact miiStep_read hp hm
  · exact h.elim miiStep_unpowered miiStep_idle
  · obtain rfl : S = wakeBits draw s := BitVec.eq_of_getLsbD_eq fun b _ => by rw [hS, wakeBits_getLsbD]
    exact ⟨wakeStep_raises, wakeStep_none⟩

/-! ### Fields and the ERROR bit of a status word -/

/-- The bits of a field placed at bit `i`. -/
theorem field_getLsbD {k : Nat} (x : BitVec k) {i : Nat} (h : i + k ≤ 32) (b : Nat) :
    ((x.setWidth 32 : Word) <<< i).getLsbD b = (decide (i ≤ b) && x.getLsbD (b - i)) := by
  rw [BitVec.getLsbD_shiftLeft, BitVec.getLsbD_setWidth]
  by_cases hb : b < 32
  · have hlt : b - i < 32 := by omega
    simp only [hb, hlt, decide_true, Bool.true_and, ← decide_not, Nat.not_lt]
  · have hout : x.getLsbD (b - i) = false := BitVec.getLsbD_of_ge x _ (by omega)
    simp only [hb, hout, decide_false, Bool.false_and, Bool.and_false]

/-- A status word with its ERROR bit 31, the OR of the `k` bits from bit `i` (R503, R511). -/
def withErrorBit (i k : Nat) (w : Word) : Word := w ||| bitIf (w.extractLsb' i k != 0#k) 31

theorem rxInfo_eq (o : RxOffer) (s : State) (n : Nat) (last : Bool) :
    rxInfo o s n last = withErrorBit 23 7 (rxInfoBase o s n last) := rfl

theorem txStatusWord_eq (draw : BitVec 10) : txStatusWord draw = withErrorBit 26 5 (draw.setWidth 32 <<< 21) := rfl

section
variable {w : Word} {i k : Nat}

theorem withErrorBit_getLsbD {b : Nat} (hb : b < 31) : (withErrorBit i k w).getLsbD b = w.getLsbD b := by
  rw [withErrorBit, BitVec.getLsbD_or, bitIf_getLsbD _ _ _ (by decide), decide_eq_false (by omega : ¬b = 31), Bool.false_and,
    Bool.or_false]

theorem withErrorBit_extractLsb' {j n : Nat} (h : j + n ≤ 31) :
    (withErrorBit i k w).extractLsb' j n = w.extractLsb' j n := by
  refine BitVec.eq_of_getLsbD_eq fun b hb => ?_
  rw [BitVec.getLsbD_extractLsb', BitVec.getLsbD_extractLsb', withErrorBit_getLsbD (by omega)]

theorem withErrorBit_error (h : i + k ≤ 31) (hw : w.getLsbD 31 = false) :
    (withErrorBit i k w).getLsbD 31 = decide ((withErrorBit i k w).extractLsb' i k ≠ 0) := by
  rw [withErrorBit_extractLsb' h, withErrorBit, BitVec.getLsbD_or, hw, bitIf_getLsbD _ _ _ (by decide), decide_eq_true rfl,
    Bool.false_or, Bool.true_and, Bool.eq_iff_iff, bne_iff_ne, decide_eq_true_eq]
  rfl

end

/-! ### TXDMA (R510, R511, R512) -/

theorem txEnabled_iff (s : State) : txEnabled s = true ↔ s.powered = true ∧ s.regs.command.getLsbD 1 = true ∧
    s.regs.mac1 &&& 0x0000C300 = 0 ∧ idx s.regs.txConsumeIndex ≠ idx s.regs.txProduceIndex := by
  simp only [txEnabled, State.txOn, Bool.and_eq_true, beq_iff_eq, bne_iff_ne, and_assoc]
  rfl

theorem txStatusWord_fields (draw : BitVec 10) : (txStatusWord draw).extractLsb' 0 21 = 0 ∧
    (txStatusWord draw).extractLsb' 21 10 = draw ∧
    (txStatusWord draw).getLsbD 31 = decide ((txStatusWord draw).extractLsb' 26 5 ≠ 0) := by
  have bits := field_getLsbD draw (i := 21) (by decide)
  rw [txStatusWord_eq]
  refine ⟨?_, ?_, withErrorBit_error (by decide) ?_⟩
  · rw [withErrorBit_extractLsb' (by decide)]
    refine BitVec.eq_of_getLsbD_eq fun b hb => ?_
    rw [BitVec.getLsbD_extractLsb', bits, decide_eq_false (by omega : ¬21 ≤ 0 + b), Bool.false_and, Bool.and_false]
    exact BitVec.getLsbD_zero.symm
  · rw [withErrorBit_extractLsb' (by decide)]
    refine BitVec.eq_of_getLsbD_eq fun b hb => ?_
    rw [BitVec.getLsbD_extractLsb', bits, decide_eq_true hb, decide_eq_true (Nat.le_add_right 21 b), Nat.add_sub_cancel_left,
      Bool.true_and, Bool.true_and]
  · rw [bits]
    exact Bool.and_eq_false_iff.2 (.inr (BitVec.getLsbD_of_ge draw _ (by decide)))

theorem txInts_getLsbD (s : State) (ctl st : Word) (b : Nat) : (txInts s ctl st).getLsbD b =
    decide (b = 7 ∧ ctl.getLsbD 31 = true ∨ b = 5 ∧ st.getLsbD 31 = true ∨ b = 4 ∧ st.getLsbD 29 = true ∨
      b = 6 ∧ (idx s.regs.txConsumeIndex + 1) % s.nt = idx s.regs.txProduceIndex) := by
  rw [Bool.eq_iff_iff]
  simp (disch := decide) only [txInts, BitVec.getLsbD_or, bitIf_getLsbD, Bool.or_eq_true, Bool.and_eq_true, decide_eq_true_eq,
    beq_iff_eq, or_assoc]

/-- The accesses of a run of bytes are no frames. -/
theorem txFrame_notMem_byteEvents (agent : Agent) (dir : Dir) (a : Nat) (bs b : List Byte) (l : Bool) :
    Event.txFrame b l ∉ byteEvents agent dir a bs := by
  simp [byteEvents]

theorem readBytes_length (m : Memory) (a n : Nat) : (Memory.readBytes m a n).length = n := by
  rw [Memory.readBytes, List.length_map, List.length_range]

theorem readBytes_getElem (m : Memory) (a n : Nat) {k : Nat} (h : k < (Memory.readBytes m a n).length) :
    (Memory.readBytes m a n)[k] = Memory.read m (a + k) := by
  simp only [Memory.readBytes, List.getElem_map, List.getElem_range]

section
variable {draw : BitVec 10} {s : State} {c d sa n : Nat} {buf ctl : Word} (hon : txEnabled s = true)
  (hc : c = idx s.regs.txConsumeIndex) (hd : d = s.regs.txDescriptor.toNat + 8 * c) (hsa : sa = s.regs.txStatus.toNat + 4 * c)
  (hbuf : buf = Memory.readWord s.mem d) (hctl : ctl = Memory.readWord s.mem (d + 4)) (hn : n = sizeField ctl)
include hon hc hd hsa hbuf hctl hn

theorem txdmaStep_stuck (h : (inDmaRegion d 8 && inDmaRegion sa 4 && inDmaRegion buf.toNat n) = false) :
    txdmaStep draw s = s := by
  subst hn hctl hbuf hsa hd hc
  have hnone : txSend draw s = none := if_neg (Bool.eq_false_iff.1 h)
  rw [txdmaStep, if_pos hon, hnone, Option.getD_none]

theorem txdmaStep_sends (h : (inDmaRegion d 8 && inDmaRegion sa 4 && inDmaRegion buf.toNat n) = true) :
    txdmaStep draw s = { s with
      mem := Memory.writeWord sa (txStatusWord draw) s.mem
      regs := { s.regs with
        txConsumeIndex := word ((c + 1) % s.nt)
        intStatus := s.regs.intStatus ||| txInts s ctl (txStatusWord draw) } }.logAll
          (txEvents d sa buf ctl (txStatusWord draw) (Memory.readBytes s.mem buf.toNat n)) := by
  subst hn hctl hbuf hsa hd hc
  rw [txdmaStep, if_pos hon, txSend]
  dsimp only
  rw [if_pos h]
  rfl

end

/-- The events of a transmission hold its frame, and before and after it only memory accesses. -/
theorem txEvents_reverse (d sa : Nat) (buf ctl st : Word) (bs : List Byte) : ∃ after before : List Event,
    (txEvents d sa buf ctl st bs).reverse = after ++ .txFrame bs (ctl.getLsbD 30) :: before ∧
    ∀ b l, Event.txFrame b l ∉ after ∧ Event.txFrame b l ∉ before := by
  refine ⟨[.mem .txdma sa 4 .write st], (byteEvents .txdma .read buf.toNat bs).reverse ++
    [.mem .txdma (d + 4) 4 .read ctl, .mem .txdma d 4 .read buf], by simp [txEvents], fun b l => ⟨by simp, ?_⟩⟩
  simp [txFrame_notMem_byteEvents]

/-- Settles O53 (`txSend` is the model's own function): held by `txEnabled_iff`, stuck outside DMA_REGION, and else the send
of R511 field by field. -/
theorem txSend_spec : Obligations.TxSend := by
  intro draw s on p c NT d sa n buf ctl hp hc hNT hon hd hsa hbuf hctl hn
  obtain rfl : p = idx s.regs.txProduceIndex := hp.trans (idx_eq_mod _).symm
  have hc : c = idx s.regs.txConsumeIndex := hc.trans (idx_eq_mod _).symm
  obtain rfl : NT = s.nt := by rw [hNT, State.nt, idx_eq_mod]
  obtain rfl : on = txEnabled s := Bool.eq_iff_iff.2 (by rw [hon, txEnabled_iff, hc])
  refine ⟨fun hoff => if_neg (Bool.eq_false_iff.1 hoff), fun hon => txdmaStep_stuck hon hc hd hsa hbuf hctl hn, fun hon hin => ?_⟩
  obtain ⟨after, before, hev, hmem⟩ := txEvents_reverse d sa buf ctl (txStatusWord draw) (Memory.readBytes s.mem buf.toNat n)
  obtain ⟨hlow, hdraw, herr⟩ := txStatusWord_fields draw
  refine ⟨Memory.writeWord sa (txStatusWord draw) s.mem, after, before, s.regs.intStatus ||| txInts s ctl (txStatusWord draw),
    txStatusWord draw, Memory.readBytes s.mem buf.toNat n, ?_, hmem, readBytes_length ..,
    fun k hk => readBytes_getElem s.mem _ _ hk, hlow, hdraw, herr, fun b => ?_, Memory.readWord_writeWord ..,
    fun a ha => Memory.read_writeWord_other _ _ ha⟩
  · rw [txdmaStep_sends hon hc hd hsa hbuf hctl hn hin, State.logAll, hev]
    rfl
  · rw [BitVec.getLsbD_or, txInts_getLsbD, hc]

/-! ### The receive filter (R505) -/

theorem isBroadcast_iff (da : Vector Byte 6) : isBroadcast da = true ↔ ∀ k (h : k < 6), da[k] = 0xFF#8 := by
  rw [isBroadcast, beq_iff_eq, List.eq_replicate_iff, Vector.length_toList, List.forall_mem_iff_getElem]
  simp only [Vector.length_toList, Vector.getElem_toList, true_and]

/-- R505's formula, term by term. -/
theorem filterAccepts_iff (r : Regs) (da : Vector Byte 6) (bcastHash : Bool) : filterAccepts r da bcastHash = true ↔
    (isGroup da = false ∧ r.rxFilterCtrl.getLsbD 0 = true) ∨ (isBroadcast da = true ∧ r.rxFilterCtrl.getLsbD 1 = true) ∨
    ((isGroup da = true ∧ ¬isBroadcast da = true) ∧ r.rxFilterCtrl.getLsbD 2 = true) ∨
    (isGroup da = false ∧ r.rxFilterCtrl.getLsbD 3 = true ∧ hashHit r da = true) ∨
    ((isGroup da = true ∧ ¬isBroadcast da = true) ∧ r.rxFilterCtrl.getLsbD 4 = true ∧ hashHit r da = true) ∨
    (da.toList = stationOctets r ∧ r.rxFilterCtrl.getLsbD 5 = true) ∨
    (isBroadcast da = true ∧ r.rxFilterCtrl.getLsbD 4 = true ∧ r.rxFilterCtrl.getLsbD 1 = false ∧ bcastHash = true) := by
  simp only [filterAccepts, Bool.or_eq_true, Bool.and_eq_true, Bool.not_eq_true', beq_iff_eq, Bool.not_eq_true, or_assoc, and_assoc]

theorem hashHit_iff (r : Regs) (da : Vector Byte 6) {i : Nat} (hi : i = ((crc32 da.toList).extractLsb' 23 6).toNat) :
    hashHit r da = true ↔
      if i < 32 then r.hashFilterL.getLsbD i = true else r.hashFilterH.getLsbD (i - 32) = true := by
  subst hi
  rw [hashHit, hashBit, Bool.ite_eq_true_distrib]
  rfl

/-! ### The status word and the interrupt bits of a deposit (R503) -/

section
variable {o : RxOffer} {s : State} {n : Nat}

/-- RX_SIZE takes the low 11 bits. -/
theorem word_getLsbD_of_le {m b : Nat} (hm : m < 2048) (hb : 11 ≤ b) : (word m).getLsbD b = false := by
  have hpow : 2048 ≤ 2 ^ b := Nat.pow_le_pow_right (n := 2) (by decide) hb
  rw [word, BitVec.getLsbD_ofNat, Nat.testBit_lt_two_pow (by omega), Bool.and_false]

theorem rxInfoBase_last_getLsbD (b : Nat) : (rxInfoBase o s n true).getLsbD b =
    ((word (n - 1)).getLsbD b || (decide (b = 30) || (decide (23 ≤ b) && s.rxErr.getLsbD (b - 23)) ||
      (decide (b = 22) && isBroadcast s.rxDa) || (decide (b = 21) && (isGroup s.rxDa && !isBroadcast s.rxDa)) ||
      (decide (b = 20) && s.rxFail) || (decide (b = 19) && o.vlan) || (decide (b = 18) && o.control))) := by
  simp (disch := decide) only [rxInfoBase, if_true, BitVec.getLsbD_or, bitIf_getLsbD, field_getLsbD, Bool.and_true]

theorem rxInfoBase_mid_getLsbD (b : Nat) : (rxInfoBase o s n false).getLsbD b =
    ((word (n - 1)).getLsbD b || (decide (18 ≤ b) && o.midInfo.getLsbD (b - 18))) := by
  simp (disch := decide) only [rxInfoBase, Bool.false_eq_true, if_false, BitVec.getLsbD_or, field_getLsbD]

/-- The flags and attributes lie above bit 17. -/
theorem rxInfoBase_getLsbD_low (last : Bool) {b : Nat} (hb : b < 18) :
    (rxInfoBase o s n last).getLsbD b = (word (n - 1)).getLsbD b := by
  cases last
  · rw [rxInfoBase_mid_getLsbD, decide_eq_false (by omega), Bool.false_and, Bool.or_false]
  · have hne (j : Nat) (hj : 18 ≤ j) : decide (b = j) = false := decide_eq_false (by omega)
    have hlt : decide (23 ≤ b) = false := decide_eq_false (by omega)
    simp (disch := decide) only [rxInfoBase_last_getLsbD, hne, hlt, Bool.false_and, Bool.or_false]

variable (hn : n ≤ 2048) (last : Bool)
include hn

/-- LAST_FLAG is bit 30, and ERROR is still to be set. -/
theorem rxInfoBase_getLsbD_top : (rxInfoBase o s n last).getLsbD 30 = last ∧ (rxInfoBase o s n last).getLsbD 31 = false := by
  have hsize (b : Nat) (hb : 11 ≤ b) : (word (n - 1)).getLsbD b = false := word_getLsbD_of_le (by omega) hb
  cases last
  · rw [rxInfoBase_mid_getLsbD, rxInfoBase_mid_getLsbD, hsize 30 (by decide), hsize 31 (by decide)]
    simp
  · rw [rxInfoBase_last_getLsbD, rxInfoBase_last_getLsbD, hsize 30 (by decide), hsize 31 (by decide)]
    simp

theorem rxInfo_size : ((rxInfo o s n last).extractLsb' 0 11).toNat = n - 1 := by
  have hlow : (rxInfo o s n last).extractLsb' 0 11 = (word (n - 1)).extractLsb' 0 11 := by
    rw [rxInfo_eq, withErrorBit_extractLsb' (by decide)]
    refine BitVec.eq_of_getLsbD_eq fun b hb => ?_
    rw [BitVec.getLsbD_extractLsb', BitVec.getLsbD_extractLsb', rxInfoBase_getLsbD_low last (by omega)]
  rw [hlow, BitVec.extractLsb'_toNat, word, BitVec.toNat_ofNat, Nat.shiftRight_zero]
  omega

theorem rxInfo_reserved : (rxInfo o s n last).extractLsb' 11 7 = 0 := by
  rw [rxInfo_eq, withErrorBit_extractLsb' (by decide)]
  refine BitVec.eq_of_getLsbD_eq fun b hb => ?_
  rw [BitVec.getLsbD_extractLsb', rxInfoBase_getLsbD_low last (by omega), word_getLsbD_of_le (by omega) (Nat.le_add_right 11 b),
    Bool.and_false]
  exact BitVec.getLsbD_zero.symm

theorem rxInfo_lastFlag : (rxInfo o s n last).getLsbD 30 = last := by
  rw [rxInfo_eq, withErrorBit_getLsbD (by decide), (rxInfoBase_getLsbD_top hn last).1]

theorem rxInfo_error : (rxInfo o s n last).getLsbD 31 = decide ((rxInfo o s n last).extractLsb' 23 7 ≠ 0) :=
  withErrorBit_error (by decide) (rxInfoBase_getLsbD_top hn last).2

/-- The last fragment carries the frame's attributes. -/
theorem rxInfo_attributes : (rxInfo o s n true).extractLsb' 23 7 = s.rxErr ∧
    (rxInfo o s n true).getLsbD 22 = isBroadcast s.rxDa ∧
    (rxInfo o s n true).getLsbD 21 = (isGroup s.rxDa && !isBroadcast s.rxDa) ∧ (rxInfo o s n true).getLsbD 20 = s.rxFail := by
  have hsize (b : Nat) (hb : 11 ≤ b) : (word (n - 1)).getLsbD b = false := word_getLsbD_of_le (by omega) hb
  rw [rxInfo_eq]
  refine ⟨?_, ?_, ?_, ?_⟩
  · rw [withErrorBit_extractLsb' (by decide)]
    refine BitVec.eq_of_getLsbD_eq fun b hb => ?_
    have hne (j : Nat) (hj : j < 23) : decide (23 + b = j) = false := decide_eq_false (by omega)
    have h30 : decide (23 + b = 30) = false := decide_eq_false (by omega)
    rw [BitVec.getLsbD_extractLsb', rxInfoBase_last_getLsbD, hsize _ (by omega), Nat.add_sub_cancel_left]
    simp (disch := decide) [hne, h30, hb]
  all_goals
    rw [withErrorBit_getLsbD (by decide), rxInfoBase_last_getLsbD, hsize _ (by decide)]
    simp

end

theorem rxInts_getLsbD (s : State) (ctl info : Word) (last : Bool) (b : Nat) : (rxInts s ctl info last).getLsbD b =
    decide (b = 3 ∧ ctl.getLsbD 31 = true ∨ b = 1 ∧ last = true ∧ info.getLsbD 31 = true ∨
      b = 2 ∧ (idx s.regs.rxProduceIndex + 2) % s.nr = idx s.regs.rxConsumeIndex) := by
  rw [Bool.eq_iff_iff]
  simp (disch := decide) only [rxInts, BitVec.getLsbD_or, bitIf_getLsbD, Bool.or_eq_true, Bool.and_eq_true, decide_eq_true_eq,
    beq_iff_eq, or_assoc]

/-! ### The memory of a deposit (R503) -/

/-- The stores of a deposit: the bytes of the fragment, then the two words of the status entry. -/
def rxMemory (st a : Nat) (info hashCrc : Word) (bs : List Byte) (m : Memory) : Memory :=
  Memory.writeWord (st + 4) hashCrc (Memory.writeWord st info (Memory.writeBytes a bs m))

section
variable {st a : Nat} {info hashCrc : Word} {bs : List Byte} {m : Memory}

theorem readWord_rxMemory : Memory.readWord (rxMemory st a info hashCrc bs m) st = info := by
  rw [rxMemory, Memory.readWord_writeWord_other _ _ (.inl (Nat.le_refl _)), Memory.readWord_writeWord]

/-- Outside the status entry a deposit stores the fragment's bytes alone. -/
theorem read_rxMemory {c : Nat} (h : c < st ∨ st + 8 ≤ c) :
    Memory.read (rxMemory st a info hashCrc bs m) c = Memory.read (Memory.writeBytes a bs m) c := by
  rw [rxMemory, Memory.read_writeWord_other _ _ (by omega), Memory.read_writeWord_other _ _ (by omega)]

theorem read_rxMemory_buffer (h : a + bs.length ≤ st ∨ st + 8 ≤ a) {k : Nat} (hk : k < bs.length) :
    Memory.read (rxMemory st a info hashCrc bs m) (a + k) = bs[k] := by
  rw [read_rxMemory (by omega), Memory.read_writeBytes, if_pos (by omega), Nat.add_sub_cancel_left, List.getD_eq_getElem]

theorem read_rxMemory_other {c : Nat} (hbuf : c < a ∨ a + bs.length ≤ c) (hst : c < st ∨ st + 8 ≤ c) :
    Memory.read (rxMemory st a info hashCrc bs m) c = Memory.read m c := by
  rw [read_rxMemory hst, Memory.read_writeBytes, if_neg (by omega)]

end

/-! ### A step of RXDMA (R500 to R504) -/

theorem rxEnabled_iff (s : State) : rxEnabled s = true ↔ s.powered = true ∧ s.regs.command.getLsbD 0 = true ∧
    s.regs.mac1.getLsbD 0 = true ∧ s.regs.mac1 &&& 0x0000CC00 = 0 := by
  simp only [rxEnabled, State.rxOn, Bool.and_eq_true, beq_iff_eq, and_assoc]
  rfl

theorem rxdmaStep_held {o : RxOffer} {s : State} (h : rxEnabled s = false) : rxdmaStep o s = s := if_pos h

theorem rxdmaStep_loses {o : RxOffer} {s : State} (hon : rxEnabled s = true) (hfull : s.rxFull = true) :
    rxdmaStep o s = rxLose o s := by
  rw [rxdmaStep, if_neg ((Bool.not_eq_false _).mpr hon), if_pos hfull]

theorem rxdmaStep_discards {o : RxOffer} {s : State} (hon : rxEnabled s = true) (hfree : s.rxFull = false)
    (hnew : s.rxMidFrame = false) (hrej : filterAccepts s.regs o.da o.bcastHash = false) (hpass : passAll s.regs = false) :
    rxdmaStep o s = s.log (.rxFrame o.frame o.err .discarded) := by
  simp [rxdmaStep, hon, hfree, hnew, hrej, hpass]

/-- The state in which the bytes `F` of a frame remain to be deposited. -/
def State.receiving (F : List Byte) (da : Vector Byte 6) (err : BitVec 7) (fail : Bool) (h : List Event) (s : State) : State :=
  { s with rxRemain := F, rxDa := da, rxErr := err, rxFail := fail, hist := h }

/-- A free descriptor takes the next fragment, of the frame in progress or of a new one that the filter lets through. -/
theorem rxdmaStep_eq_rxDeposit {o : RxOffer} {s : State} {F : List Byte} {da : Vector Byte 6} {err : BitVec 7} {fail : Bool}
    (hon : rxEnabled s = true) (hfree : s.rxFull = false) (hF : F = if s.rxMidFrame then s.rxRemain else o.da.toList ++ o.rest)
    (hda : da = if s.rxMidFrame then s.rxDa else o.da) (herr : err = if s.rxMidFrame then s.rxErr else o.err)
    (hfail : fail = if s.rxMidFrame then s.rxFail else !filterAccepts s.regs o.da o.bcastHash)
    (htake : s.rxMidFrame = true ∨ fail = false ∨ passAll s.regs = true) :
    ∃ h, rxdmaStep o s = (rxDeposit o (s.receiving F da err fail h)).getD s := by
  subst hF hda herr hfail
  rw [rxdmaStep, if_neg ((Bool.not_eq_false _).mpr hon), if_neg (Bool.eq_false_iff.1 hfree)]
  by_cases hmid : s.rxMidFrame = true
  · simp only [if_pos hmid]
    exact ⟨s.hist, rfl⟩
  · simp only [if_neg hmid, Bool.not_eq_false'] at htake ⊢
    rw [if_pos (Bool.or_eq_true_iff.2 (htake.resolve_left hmid))]
    exact ⟨_, rfl⟩

section
variable {o : RxOffer} {s : State} {F : List Byte} {da : Vector Byte 6} {err : BitVec 7} {fail : Bool} {h : List Event}
  {p d st n : Nat} {buf ctl info : Word} (hp : p = idx s.regs.rxProduceIndex)
  (hd : d = s.regs.rxDescriptor.toNat + 8 * p) (hst : st = s.regs.rxStatus.toNat + 8 * p)
  (hbuf : buf = Memory.readWord s.mem d) (hctl : ctl = Memory.readWord s.mem (d + 4)) (hn : n = min (sizeField ctl) F.length)
include hp hd hst hbuf hctl hn

theorem rxDeposit_stuck (hout : (inDmaRegion d 8 && inDmaRegion st 8 && inDmaRegion buf.toNat n) = false) :
    rxDeposit o (s.receiving F da err fail h) = none := by
  subst hn hctl hbuf hst hd hp
  exact if_neg (Bool.eq_false_iff.1 hout)

theorem rxDeposit_deposits (hinfo : info = rxInfo o (s.receiving F da err fail h) n (decide (n = F.length)))
    (hin : (inDmaRegion d 8 && inDmaRegion st 8 && inDmaRegion buf.toNat n) = true) :
    ∃ es, rxDeposit o (s.receiving F da err fail h) = some { s with
      mem := rxMemory st buf.toNat info o.hashCrc (F.take n) s.mem
      hist := es
      regs := { s.regs with
        rxProduceIndex := word ((p + 1) % s.nr)
        intStatus := s.regs.intStatus ||| rxInts s ctl info (decide (n = F.length)) }
      rxDa := da
      rxErr := err
      rxFail := fail
      rxRemain := F.drop n
      rxMidFrame := decide (n < F.length) } := by
  have hle : n ≤ F.length := hn ▸ Nat.min_le_right ..
  have hmid : decide (n < F.length) = !decide (n = F.length) := by
    rw [← decide_not]
    exact decide_eq_decide.2 ⟨Nat.ne_of_lt, Nat.lt_of_le_of_ne hle⟩
  subst hinfo
  rw [hmid]
  subst hn hctl hbuf hst hd hp
  exact ⟨_, if_pos hin⟩

end

/-- A produce index fits its register. -/
theorem toNat_word_mod_nr (s : State) (i : Nat) : (word (i % s.nr)).toNat = i % s.nr := by
  have hnr : s.nr ≤ 65536 := idx_lt _
  have hlt : i % s.nr < s.nr := Nat.mod_lt i (Nat.succ_pos _)
  rw [word, BitVec.toNat_ofNat, Nat.mod_eq_of_lt (by omega)]

theorem sizeField_le (ctl : Word) : sizeField ctl ≤ 2048 := (ctl.extractLsb' 0 11).isLt

/-- Settles O52: held, lost, stuck, or the deposit of R503 field by field. -/
theorem rxDepositOrLoss : Obligations.RxDepositOrLoss := by
  intro o s F err da fail on p c NR d st n buf ctl hp hc hNR hF herr hda hfail hon hd hst hbuf hctl hn
  have hp : p = idx s.regs.rxProduceIndex := hp.trans (idx_eq_mod _).symm
  have hc : c = idx s.regs.rxConsumeIndex := hc.trans (idx_eq_mod _).symm
  obtain rfl : NR = s.nr := by rw [hNR, State.nr, idx_eq_mod]
  obtain rfl : on = rxEnabled s := Bool.eq_iff_iff.2 (hon.trans (rxEnabled_iff s).symm)
  have hring : s.rxFull = true ↔ (p + 1) % s.nr = c := by rw [State.rxFull, beq_iff_eq, hp, hc]
  refine ⟨rxdmaStep_held, fun hon hfull => ?_, fun hon hfree hne htake => ?_⟩
  · rw [rxdmaStep_loses hon (hring.2 hfull), hF, herr]
    rfl
  have hfree : s.rxFull = false := Bool.eq_false_iff.2 fun h => hfree (hring.1 h)
  obtain ⟨h, hstep⟩ := rxdmaStep_eq_rxDeposit hon hfree hF hda herr hfail htake
  refine ⟨fun hout => ?_, fun hin => ?_⟩
  · rw [hstep, rxDeposit_stuck hp hd hst hbuf hctl hn hout, Option.getD_none]
  · obtain ⟨info, hinfo⟩ : ∃ i, i = rxInfo o (s.receiving F da err fail h) n (decide (n = F.length)) := ⟨_, rfl⟩
    obtain ⟨es, hdep⟩ := rxDeposit_deposits hp hd hst hbuf hctl hn hinfo hin
    have hsize : n ≤ 2048 := hn ▸ (Nat.min_le_left ..).trans (sizeField_le ctl)
    have hlen : (F.take n).length = n := by rw [List.length_take, hn, Nat.min_assoc, Nat.min_self]
    refine ⟨_, es, _, info, by rw [hstep, hdep, Option.getD_some]; rfl, fun b => ?_, hinfo ▸ rxInfo_size hsize _,
      hinfo ▸ rxInfo_reserved hsize _, hinfo ▸ rxInfo_lastFlag hsize _, hinfo ▸ rxInfo_error hsize _, fun hfull => ?_,
      readWord_rxMemory, fun hdisj k hk hkn => ?_, fun a ha hst => read_rxMemory_other (by rwa [hlen]) hst⟩
    · simp only [BitVec.getLsbD_or, rxInts_getLsbD, decide_eq_true_eq, hp, hc]
    · rw [hinfo, decide_eq_true hfull]
      exact rxInfo_attributes hsize
    · rw [read_rxMemory_buffer (by rwa [hlen]) (by rwa [hlen]), List.getElem_take]

/-- Settles O51: the formula is `filterAccepts`; what it takes is deposited as O52's fragments are. -/
theorem receiveFilter : Obligations.ReceiveFilter := by
  intro o s uc bc mc hit perfect accept p NR d st n buf ctl hpow hcmd hmac hres hp hNR hfree hnew hd hst hbuf hctl hn hbc huc hmc
    hhit hperf hacc
  have hp : p = idx s.regs.rxProduceIndex := hp.trans (idx_eq_mod _).symm
  obtain rfl : NR = s.nr := by rw [hNR, State.nr, idx_eq_mod]
  have hon : rxEnabled s = true := (rxEnabled_iff s).2 ⟨hpow, hcmd, hmac, hres⟩
  have hfree : s.rxFull = false := by
    rw [State.rxFull, beq_eq_false_iff_ne, ← hp, idx_eq_mod]
    exact hfree
  obtain rfl : accept = filterAccepts s.regs o.da o.bcastHash := by
    rw [Bool.eq_iff_iff, hacc, filterAccepts_iff, hmc, huc, hbc.trans (isBroadcast_iff _).symm,
      (hhit _ rfl).trans (hashHit_iff _ _ rfl).symm, hperf]
    rfl
  refine ⟨rxdmaStep_discards hon hfree hnew, fun htake => ?_⟩
  have hmid : ¬s.rxMidFrame = true := Bool.eq_false_iff.1 hnew
  obtain ⟨h, hstep⟩ := rxdmaStep_eq_rxDeposit hon hfree (if_neg hmid).symm (if_neg hmid).symm (if_neg hmid).symm
    (if_neg hmid).symm (.inr (htake.imp_left fun h => by rw [h]; rfl))
  have hlen : (o.da.toList ++ o.rest).length = 6 + o.rest.length := by rw [List.length_append, Vector.length_toList]
  rw [← hlen] at hn
  refine ⟨fun hout => ?_, fun hin => ?_⟩
  · rw [hstep, rxDeposit_stuck hp hd hst hbuf hctl hn hout, Option.getD_none]
  · obtain ⟨es, hdep⟩ := rxDeposit_deposits hp hd hst hbuf hctl hn rfl hin
    rw [hstep, hdep]
    exact ⟨rfl, rfl, rfl, toNat_word_mod_nr s (p + 1)⟩

end Sys2Proof.Machine
end

section
/-!
PROOFS. Program control (spec/47_program.md): a step runs the line at the program counter or the next micro-step (R551, R558), the
control commands move the program counter (R553 to R556), and a run ends when FG has halted and IRQ is idle (R557).
-/

namespace Sys2Proof.Machine

/-! ### The step of a host context -/

section
variable {s : State} {l : Line} {i : Instr} {st : Word} {n : Fin 10} {id pc : Nat} {op : List OpFrame}

theorem curProg_fg (hi : s.irq = .idle) : curProg s = s.prog := by
  simp only [curProg, hi]

theorem curPc_fg (hi : s.irq = .idle) : curPc s = s.pc := by
  simp only [curPc, hi]

theorem curRet_fg (hi : s.irq = .idle) : curRet s = s.ret := by
  simp only [curRet, hi]

theorem curOp_fg (hi : s.irq = .idle) : curOp s = s.fgOp := by
  simp only [curOp, hi]

theorem curLine_fg (hi : s.irq = .idle) : curLine s = s.prog[s.pc]? := by
  simp only [curLine, hi]

theorem curProg_body (hi : s.irq = .running st (.body n id pc op)) : curProg s = bodyOf s id := by
  simp only [curProg, hi]

theorem curPc_body (hi : s.irq = .running st (.body n id pc op)) : curPc s = pc := by
  simp only [curPc, hi]

theorem curOp_body (hi : s.irq = .running st (.body n id pc op)) : curOp s = op := by
  simp only [curOp, hi]

theorem curLine_body (hi : s.irq = .running st (.body n id pc op)) : curLine s = (bodyOf s id)[pc]? := by
  simp only [curLine, curProg_body hi, curPc_body hi, hi]

theorem curRet_running {pos : IrqPos} (hi : s.irq = .running st pos) : curRet s = s.irqRet := by
  simp only [curRet, hi]

theorem runLine_command (s : State) (h : decode l = some i) : runLine l s = exec i s := by
  rw [runLine, decode_eq_some_iff.1 h]

theorem contextStep_command (hop : curOp s = []) (hl : curLine s = some l) (hdec : decode l = some i) :
    contextStep s = exec i s := by
  rw [contextStep, hop, hl]
  exact runLine_command s hdec

theorem contextStep_operation (h : curOp s ≠ []) : contextStep s = continueOp s := by
  obtain ⟨f, fs, hop⟩ := List.exists_cons_of_ne_nil h
  rw [contextStep, hop]

theorem step_fg (ht : s.turn = .fg) (hi : s.irq = .idle) (hh : s.halted = false) : step s = endStep (contextStep s) := by
  rw [step, machineStep, agentStep, ht]
  exact congrArg endStep (if_pos ⟨hi, hh⟩)

theorem step_body (ht : s.turn = .irq) (hi : s.irq = .running st (.body n id pc op)) :
    step s = endStep (contextStep s) := by
  rw [step, machineStep, agentStep, ht]
  simp only [irqStep, hi]

/-- A command FG begins (R551). -/
theorem step_fgCommand (ht : s.turn = .fg) (hi : s.irq = .idle) (hh : s.halted = false) (hop : s.fgOp = [])
    (hl : s.prog[s.pc]? = some l) (hdec : decode l = some i) : step s = endStep (exec i s) := by
  rw [step_fg ht hi hh, contextStep_command ((curOp_fg hi).trans hop) ((curLine_fg hi).trans hl) hdec]

/-! ### The line a command word is placed as -/

theorem placeLine_getElem? (l : Line) (s : State) : (placeLine l s)[s.pc]? = some l := by
  unfold placeLine
  split
  · rename_i hpc
    exact List.getElem?_set_self hpc
  · rename_i hpc
    have hlen : (s.prog ++ List.replicate (s.pc - s.prog.length) l).length = s.pc := by
      rw [List.length_append, List.length_replicate]
      omega
    have hlast := List.getElem?_concat_length (l := s.prog ++ List.replicate (s.pc - s.prog.length) l) (a := l)
    rwa [hlen] at hlast

theorem decode_lineOfWord {nbits w : Nat} (h : decodeTableWord nbits w = some i) : decode (lineOfWord nbits w) = some i := by
  unfold decodeTableWord at h
  split at h
  · exact h
  · cases h

end

/-- Settles O7: the two host contexts take the same step, each at its own line or operation. -/
theorem stepRunsDecodedCommand : Obligations.StepRunsDecodedCommand := by
  refine ⟨fun s l i => step_fgCommand, fun s l i st n id pc ht hi hl hdec => ?_, fun s ht hi hh hop => ?_,
    fun s st n id pc f fs ht hi => ?_, fun t f => ⟨rfl, rfl⟩, fun s w i h => ?_⟩
  · rw [step_body ht hi, contextStep_command (curOp_body hi) ((curLine_body hi).trans hl) hdec]
  · rw [step_fg ht hi hh, contextStep_operation (by rwa [curOp_fg hi])]
  · rw [step_body ht hi, contextStep_operation (by simp [curOp_body hi])]
  · exact step_fgCommand rfl rfl rfl rfl (placeLine_getElem? _ s) (decode_lineOfWord h)

/-! ### Moving the program counter (R553 to R556) -/

section
variable {s : State} {imm : Word} {target : Nat}

theorem exec_beq (h : target ≤ (curProg s).length) :
    exec (.beq imm target) s = .next (goTo (if curRet s = imm then target else curPc s + 1) s) := by
  rw [apply_ite (goTo · s)]
  exact if_pos (decide_eq_true h)

theorem exec_bne (h : target ≤ (curProg s).length) :
    exec (.bne imm target) s = .next (goTo (if curRet s ≠ imm then target else curPc s + 1) s) := by
  rw [apply_ite (goTo · s)]
  exact if_pos (decide_eq_true h)

theorem exec_jmp (h : target ≤ (curProg s).length) : exec (.jmp target) s = .next (goTo target s) :=
  if_pos (decide_eq_true h)

theorem exec_delayMs (n : Word) : exec (.delayMs n) s = .next (goTo (curPc s + 1) { s with hist := .delayMs n :: s.hist }) := rfl

theorem exec_halt : exec .halt s = .next (haltAgent s) := rfl

theorem goTo_fg (hi : s.irq = .idle) (k : Nat) : goTo k s = { s with pc := k, fgOp := [] } := by
  simp only [goTo, hi]

theorem goTo_body {st : Word} {n : Fin 10} {id pc : Nat} {op : List OpFrame} (hi : s.irq = .running st (.body n id pc op))
    (k : Nat) : goTo k s = if k < (bodyOf s id).length then { s with irq := .running st (.body n id k []) } else leaveBody st n s := by
  simp only [goTo, hi, State.setIrq]

end

/-! ### The end of FG and of a run (R556, R557) -/

theorem fgStep_stops {s : State} (h : s.halted = true) : fgStep s = .next s :=
  if_neg fun hrun => absurd h (Bool.eq_false_iff.1 hrun.2)

theorem fgStep_end {s : State} (hi : s.irq = .idle) (hop : s.fgOp = []) (hpc : s.prog.length ≤ s.pc) : fgStep s = .next s := by
  have hctx : contextStep s = .next s := by
    rw [contextStep, (curOp_fg hi).trans hop, (curLine_fg hi).trans (List.getElem?_eq_none hpc)]
  rw [fgStep, hctx, ite_self]

theorem runEnd_normal {s : State} (h : s.runEnded = true) : runEnd (.next s) = some (.normal s) := if_pos h

theorem runEnd_goesOn {s : State} (h : ¬s.runEnded = true) : runEnd (.next s) = none := if_neg h

/-- Settles O20: FG's commands, a body's commands, and the two sides of `runEnded_iff`. -/
theorem controlCommands : Obligations.ControlCommands := by
  refine ⟨fun s imm n target hi => ?_, fun s st imm n k id pc op target at_ hi hat => ?_, fun s => ?_, fun f => rfl⟩
  · have hhalt : exec .halt s = .next { s with halted := true, fgOp := [] } := by rw [exec_halt, haltAgent, hi]
    refine ⟨fun ht => ?_, hhalt, ?_, ?_, fgStep_stops, fun hend hop => fgStep_end hi hop hend⟩
    · rw [← curProg_fg hi] at ht
      rw [exec_beq ht, exec_bne ht, exec_jmp ht, goTo_fg hi, goTo_fg hi, goTo_fg hi, curRet_fg hi, curPc_fg hi]
      exact ⟨rfl, rfl, rfl⟩
    · rw [hhalt]
      exact runEnd_normal (runEnded_iff.2 ⟨.inl rfl, hi⟩)
    · rw [exec_delayMs, goTo_fg (by exact hi), curPc_fg hi]
  · have hgo (p : Nat) (u : State) (hirq : u.irq = s.irq) (hbodies : u.bodies = s.bodies) : goTo p u = at_ p u := by
      rw [goTo_body (hirq.trans hi), hat, bodyOf, hbodies, bodyOf]
    refine ⟨fun ht => ?_, ?_, ?_⟩
    · rw [← curProg_body hi] at ht
      rw [exec_beq ht, exec_bne ht, exec_jmp ht, hgo _ s rfl rfl, hgo _ s rfl rfl, hgo _ s rfl rfl, curRet_running hi,
        curPc_body hi]
      exact ⟨rfl, rfl, rfl⟩
    · rw [exec_halt, haltAgent, hi]
    · rw [exec_delayMs, curPc_body hi]
      exact congrArg Host.Outcome.next (hgo (pc + 1) _ rfl rfl)
  · exact ⟨fun h => runEnd_normal (runEnded_iff.2 h.symm), fun h => runEnd_goesOn fun he => h (runEnded_iff.1 he).symm⟩

end Sys2Proof.Machine
end

section
/-!
PROOFS. The interrupt (spec/60_exceptions.md R604 to R607): entry, the hold of FG, what the IRQ agent leaves of FG's context, and the
interrupt return as the only exit.
-/

namespace Sys2Proof.Machine

section
variable {s t : State}

theorem irqLine_iff : irqLine s = true ↔
    s.powered = true ∧ s.regs.intStatus &&& s.regs.intEnable &&& 0x000030FF ≠ 0 := by
  rw [irqLine, intDefinedMask_eq, Bool.and_eq_true, bne_iff_ne]

/-! ### Entry (R605), and the hold of FG (R606) -/

theorem irqStep_enters (hi : s.irq = .idle) (h : irqLine s = true) :
    irqStep s = .next { s with irq := .running 0 .start } := by
  rw [irqStep, hi]
  exact congrArg Host.Outcome.next (if_pos h)

theorem irqStep_waits (hi : s.irq = .idle) (h : irqLine s = false) : irqStep s = .next s := by
  rw [irqStep, hi]
  exact congrArg Host.Outcome.next (if_neg (Bool.eq_false_iff.1 h))

theorem fgStep_held (h : s.irq ≠ .idle) : fgStep s = .next s := if_neg fun hrun => h hrun.1

/-! ### The steps of a running IRQ agent -/

theorem Moves.of_running (hi : s.irq ≠ .idle)
    (h : (∃ es, t.hist = es ++ s.hist) ∧ t.irq ≠ .idle ∧ t = { s with irq := t.irq, hist := t.hist }) : Moves s t :=
  ⟨fun e => absurd e hi, fun _ => ⟨h.1, h.2.1, by rw [h.2.2]⟩⟩

theorem thenRead_host {r : Reg} {k : Word → State → State} (hi : s.irq ≠ .idle)
    (hk : ∀ v u, u.irq ≠ .idle → Moves u (k v u)) (h : thenRead (busRead r s) k = .next t) : HostStep s t := by
  unfold thenRead at h
  split at h <;> cases h
  rename_i v u hu
  exact ⟨u, u, .read r v u hu, Marks.refl u, hk v u (by rw [(busRead_ok hu).2.2.2]; exact hi)⟩

theorem thenWrite_host {r : Reg} {v : Word} {k : State → State} (hi : s.irq ≠ .idle)
    (hk : ∀ u, u.irq ≠ .idle → Moves u (k u)) (h : thenWrite (busWrite r v s) k = .next t) : HostStep s t := by
  unfold thenWrite at h
  split at h <;> cases h
  rename_i u hu
  exact ⟨u, u, .write r v u hu, Marks.refl u, hk u (by rw [(busWrite_ok hu).2.2.2]; exact hi)⟩

/-- At every position but the last the IRQ agent takes a host context's step. -/
theorem irqStep_host {st : Word} {pos : IrqPos} (hi : s.irq = .running st pos) (hpos : pos ≠ .done) (h : irqStep s = .next t) :
    HostStep s t := by
  have hne : s.irq ≠ .idle := by rw [hi]; exact Irq.noConfusion
  rw [irqStep, hi] at h
  cases pos with
  | start =>
    obtain ⟨i, -, he⟩ := runLine_ok h
    exact exec_ok he
  | readEnable => exact thenRead_host hne (fun _ _ hu => setIrq_moves hu) h
  | clear => exact thenWrite_host hne (fun u hu => .of_running hu (scan_moves batchOrdinals st u)) h
  | body => exact contextStep_ok h
  | wolClear => exact thenWrite_host hne (fun u hu => .of_running hu (enterWake_moves st u)) h
  | done => exact absurd rfl hpos

/-- A host context's step does not leave the IRQ context. -/
theorem HostStep.irq_of_running (h : HostStep s t) (hi : s.irq ≠ .idle) : t.irq ≠ .idle := by
  obtain ⟨u, v, ha, hm, hv⟩ := h
  refine (hv.2 ?_).2.1
  rw [hm.2.2, ha.frame]
  exact hi

/-- A host context's step of FG leaves IRQ's result register (R550). -/
theorem HostStep.irqRet_of_idle (h : HostStep s t) (hi : s.irq = .idle) : t.irqRet = s.irqRet := by
  obtain ⟨u, v, ha, hm, hv⟩ := h
  have hv' := hv.1 (by rw [hm.2.2, ha.frame]; exact hi)
  rw [hv', hm.2.2, ha.frame]

/-- A step of the IRQ agent: from idle it enters the interrupt or waits; running, it takes a host context's step or returns. -/
theorem irqStep_forms (h : irqStep s = .next t) :
    (s.irq = .idle ∧ ∃ q, t = { s with irq := q }) ∨ (s.irq ≠ .idle ∧ HostStep s t) ∨
      ∃ st, s.irq = .running st .done ∧ t = { s with irq := .idle } := by
  cases hi : s.irq with
  | idle =>
    refine .inl ⟨rfl, ?_⟩
    cases hl : irqLine s with
    | true => cases (irqStep_enters hi hl).symm.trans h; exact ⟨_, rfl⟩
    | false => cases (irqStep_waits hi hl).symm.trans h; exact ⟨s.irq, rfl⟩
  | running st pos =>
    by_cases hpos : pos = .done
    · subst hpos
      cases (irqStep_done hi).symm.trans h
      exact .inr (.inr ⟨st, rfl, rfl⟩)
    · exact .inr (.inl ⟨Irq.noConfusion, irqStep_host hi hpos h⟩)

/-- The IRQ agent leaves FG's context. -/
theorem irqStep_fg (h : irqStep s = .next t) : t.pc = s.pc ∧ t.ret = s.ret ∧ t.fgOp = s.fgOp ∧ t.halted = s.halted := by
  rcases irqStep_forms h with ⟨-, q, rfl⟩ | ⟨hi, hs⟩ | ⟨st, -, rfl⟩
  · exact ⟨rfl, rfl, rfl, rfl⟩
  · obtain ⟨hpc, hret, hop, hhalt, -⟩ := hs.fg_of_running hi
    exact ⟨hpc, hret, hop, hhalt⟩
  · exact ⟨rfl, rfl, rfl, rfl⟩

/-- The IRQ context ends by the interrupt return alone (R607). -/
theorem irqStep_exit (h : irqStep s = .next t) (hs : s.irq ≠ .idle) (ht : t.irq = .idle) :
    ∃ st, s.irq = .running st .done ∧ t = { s with irq := .idle } := by
  rcases irqStep_forms h with ⟨hi, -⟩ | ⟨hi, hstep⟩ | hdone
  · exact absurd hi hs
  · exact absurd ht (hstep.irq_of_running hi)
  · exact hdone

/-- FG leaves the IRQ agent's position and result (R606). -/
theorem fgStep_irq (h : fgStep s = .next t) : t.irq = s.irq ∧ t.irqRet = s.irqRet := by
  unfold fgStep at h
  split at h
  · rename_i hrun
    have hs := contextStep_ok h
    exact ⟨(hs.irq_of_idle hrun.1).trans hrun.1.symm, hs.irqRet_of_idle hrun.1⟩
  · cases h
    exact ⟨rfl, rfl⟩

end

/-- Settles O50: the line decides entry, and the forms of an IRQ step give the frame and the exit. -/
theorem interruptEntryAndReturn : Obligations.InterruptEntryAndReturn := by
  refine ⟨fun s hi => ⟨fun hp hm => irqStep_enters hi (irqLine_iff.2 ⟨hp, hm⟩), fun hlow => irqStep_waits hi ?_⟩,
    fun s => fgStep_held, fun s t h => ?_, fun s t => fgStep_irq⟩
  · refine Bool.eq_false_iff.2 fun hl => ?_
    obtain ⟨hp, hm⟩ := irqLine_iff.1 hl
    exact hlow.elim (fun hp' => absurd (hp'.symm.trans hp) Bool.false_ne_true) hm
  · obtain ⟨hpc, hret, hop, hhalt⟩ := irqStep_fg h
    exact ⟨hpc, hret, hop, hhalt, irqStep_exit h⟩

end Sys2Proof.Machine
end

section
/-!
PROOFS. Every operation ends (spec/70_reset_and_hazards.md R713): the cost of a frame is an upper bound on the micro-steps still to come
from it, the retries of its polls included, and each micro-step lowers the sum of the costs of the frames of its operation.  The cost
takes the number of polls as a variable bound, so that no proof computes with the value of a parameter of R6.
-/

namespace Sys2Proof.Machine

/-! ### The cost of a frame -/

/-- The micro-steps of one entry of a straight-line part; a read-modify-write has two (R165). -/
def Micro.cost : Micro → Nat
  | .setBits _ _ | .clrBits _ _ => 2
  | _ => 1

/-- A straight-line part and its end. -/
def seqCost (ms : List Micro) : Nat := (ms.map Micro.cost).sum + 1

theorem seqCost_cons (m : Micro) (ms : List Micro) : seqCost (m :: ms) = m.cost + seqCost ms := by
  rw [seqCost, List.map_cons, List.sum_cons, Nat.add_assoc, seqCost]

/-- The copy of a packet from word `j` on, two micro-steps a word, and its end (R302, R303). -/
def copyCost (len j : Nat) : Nat := 2 * (wordCount len - j) + 1

/-- Every access to the PHY and every reset of it has at most `polls` polls after its first (R6). -/
structure PollBound (polls : Nat) : Prop where
  mii : Config.miiRetries - 1 ≤ polls
  reset : Config.phyResetRetries - 1 ≤ polls

theorem exists_pollBound : ∃ polls, PollBound polls := ⟨_, le_max_left _ _, le_max_right _ _⟩

section
variable (polls : Nat)

/-- WRITE_PHY with all its polls (R353). -/
def writePhyCost : Nat := polls + 3

/-- READ_PHY with all its polls (R354). -/
def readPhyCost : Nat := polls + 5

/-- The second half of DETECT_PHY (R355). -/
def detectCost : Nat := readPhyCost polls + 2

/-- UPDATE_STATUS from the duplex status on (R359, R361). -/
def duplexCost : Nat := readPhyCost polls + 11

/-- UPDATE_STATUS from a failed link poll on, with `left` polls after it (R359). -/
def linkDelayCost (left : Nat) : Nat := left * (2 * readPhyCost polls + duplexCost polls + 4) + 1

/-- UPDATE_STATUS from the result of a link poll on. -/
def linkPollCost (left : Nat) : Nat := linkDelayCost polls left + readPhyCost polls + duplexCost polls + 2

/-- SET_MODE after its PHY write (R357). -/
def setModeCost : Nat := readPhyCost polls + linkPollCost polls (Config.linkRetries - 1) + 2

/-- INIT_RX_RING (R300). -/
def initRxCost : Nat := seqCost rxRingSeq + 2

/-- INIT_TX_RING (R301). -/
def initTxCost : Nat := seqCost txRingSeq + 2

/-- INIT after SET_MODE (R400). -/
def initModeCost : Nat := initRxCost + initTxCost + 15

/-- INIT after DETECT_PHY. -/
def initDetectedCost : Nat := writePhyCost polls + setModeCost polls + initModeCost + 1

/-- INIT from the result of a BMCR poll on, with `left` polls after it. -/
def initPollCost (left : Nat) : Nat :=
  left * (readPhyCost polls + 1) + readPhyCost polls + detectCost polls + initDetectedCost polls + 1

theorem initPollCost_mono {left left' : Nat} (h : left ≤ left') : initPollCost polls left ≤ initPollCost polls left' := by
  have hle := Nat.mul_le_mul_right (readPhyCost polls + 1) h
  unfold initPollCost
  omega

/-- An upper bound on the micro-steps still to come from a frame. -/
def OpFrame.cost : OpFrame → Nat
  | .seq ms => seqCost ms
  | .initRx => initRxCost
  | .initTx => initTxCost
  | .txPkt _ _ len => copyCost len 0 + 1
  | .txRead _ _ _ len j => copyCost len (j + 1) + 2
  | .txWrite _ _ _ len j _ => copyCost len (j + 1) + 1
  | .rxPkt _ _ len => copyCost len 0 + 1
  | .rxRead _ _ len j => copyCost len (j + 1) + 2
  | .rxWrite _ _ len j _ => copyCost len (j + 1) + 1
  | .wpMadr _ _ => writePhyCost polls
  | .wpMwtd _ => polls + 2
  | .wpPoll left => left + 1
  | .rpMadr _ => readPhyCost polls
  | .rpMcmd => polls + 4
  | .rpPoll left => left + 3
  | .rpClear => 2
  | .detect1 => detectCost polls
  | .setMode => setModeCost polls
  | .updLink left => linkPollCost polls left
  | .updDelay left => linkDelayCost polls left
  | .updDup => duplexCost polls
  | .updSpeed _ => 9
  | .initWritten _ _ => readPhyCost polls + initPollCost polls polls + 1
  | .initPoll _ _ left => initPollCost polls left
  | .initDetected _ _ => initDetectedCost polls
  | .initMode _ => initModeCost
  | .rxDone | .txDone | .txCtl _ _ | .chkRx _ | .chkTx _ | .rpData | .detect2 _ | .checkStatus _ | .linkUp | .initRing
  | .initEnd _ | .deinitDone => 1

/-- The cost of an operation at the frames `fs`. -/
def opCost (fs : List OpFrame) : Nat := (fs.map (OpFrame.cost polls)).sum

@[simp] theorem opCost_nil : opCost polls [] = 0 := rfl

@[simp] theorem opCost_cons (f : OpFrame) (fs : List OpFrame) : opCost polls (f :: fs) = f.cost polls + opCost polls fs :=
  List.sum_cons

@[simp] theorem opCost_append (fs gs : List OpFrame) : opCost polls (fs ++ gs) = opCost polls fs + opCost polls gs := by
  rw [opCost, List.map_append, List.sum_append]; rfl

theorem OpFrame.cost_pos (f : OpFrame) : 0 < f.cost polls := by cases f <;> exact Nat.succ_pos _

/-- Frames handed over to cost less when their own cost is less than that of the frame they replace. -/
theorem opCost_lt_of_cost {polls : Nat} {f : OpFrame} {gs : List OpFrame} (h : opCost polls gs < f.cost polls)
    (fs : List OpFrame) : opCost polls (gs ++ fs) < opCost polls (f :: fs) := by
  rw [opCost_append, opCost_cons]
  exact Nat.add_lt_add_right h _

/-! ### The costs of what the operations hand over to -/

@[simp] theorem opCost_readPhyFrames (reg : MiiAddr) : opCost polls (readPhyFrames reg) = readPhyCost polls := rfl

@[simp] theorem opCost_detectFrames : opCost polls detectFrames = readPhyCost polls + detectCost polls := rfl

@[simp] theorem opCost_checkStatusFrames (kind : Word) : opCost polls (checkStatusFrames kind) = readPhyCost polls + 1 := rfl

@[simp] theorem opCost_updateStatusFrames :
    opCost polls updateStatusFrames = readPhyCost polls + (linkPollCost polls (Config.linkRetries - 1) + 1) := by
  simp only [updateStatusFrames, opCost_cons, opCost_nil, OpFrame.cost]
  omega

@[simp] theorem opCost_setModeFrames (bmcr : Half) : opCost polls (setModeFrames bmcr) = writePhyCost polls + setModeCost polls :=
  rfl

@[simp] theorem seqCost_macConfigure (full fast : Bool) : seqCost (macConfigure full fast) = 7 := by
  cases full <;> rfl

@[simp] theorem seqCost_stationSeq (mac : List Byte) : seqCost (stationSeq mac) = 4 := rfl

@[simp] theorem seqCost_initTail : seqCost initTail = 8 := rfl

end

/-! ### Answers -/

/-- Where it answers, `r` leaves an operation of a cost below `n`. -/
def CostsBelow (polls n : Nat) (r : Except Fault (State × Cont)) : Prop := ∀ x, r = .ok x → opCost polls x.2.frames < n

section
variable {polls n : Nat} {s : State}

theorem costsBelow_ok {x : State × Cont} (h : opCost polls x.2.frames < n) : CostsBelow polls n (.ok x) := by
  rintro _ ⟨⟩; exact h

theorem costsBelow_doRead {r : Reg} {k : Word → State → Except Fault (State × Cont)}
    (hk : ∀ v u, CostsBelow polls n (k v u)) : CostsBelow polls n (doRead r s k) := by
  intro x h
  obtain ⟨v, u, -, hx⟩ := doRead_ok h
  exact hk v u x hx

theorem costsBelow_doWrite {r : Reg} {v : Word} {k : State → State × Cont} (hk : ∀ u, opCost polls (k u).2.frames < n) :
    CostsBelow polls n (doWrite r v s k) := by
  rintro ⟨t, c⟩ h
  obtain ⟨u, -, hx⟩ := doWrite_ok h
  exact hx ▸ hk u

theorem costsBelow_doAddress {reg : MiiAddr} {k : State → State × Cont} (hk : ∀ u, opCost polls (k u).2.frames < n) :
    CostsBelow polls n (doAddress reg s k) := by
  rintro ⟨t, c⟩ h
  obtain ⟨-, u, -, hx⟩ := doAddress_ok h
  exact hx ▸ hk u

theorem costsBelow_doMemRead {a : Nat} {k : Word → State → State × Cont} (hk : ∀ v u, opCost polls (k v u).2.frames < n) :
    CostsBelow polls n (doMemRead a s k) := by
  rintro ⟨t, c⟩ h
  obtain ⟨v, u, -, hx⟩ := doMemRead_ok h
  exact hx ▸ hk v u

theorem costsBelow_doMemWrite {a : Nat} {v : Word} {k : State → State × Cont} (hk : ∀ u, opCost polls (k u).2.frames < n) :
    CostsBelow polls n (doMemWrite a v s k) := by
  rintro ⟨t, c⟩ h
  obtain ⟨u, -, hx⟩ := doMemWrite_ok h
  exact hx ▸ hk u

end

/-! ### The copies of WRITE_TX_PACKET and READ_RX_PACKET -/

/-- Before a word of the copy, its read and its write are still to come. -/
theorem copyCost_of_lt {len j : Nat} (h : j < wordCount len) : copyCost len j = copyCost len (j + 1) + 2 := by
  unfold copyCost
  omega

theorem txNext_cost (polls pkt p src len j : Nat) : (txNext pkt p src len j).cost polls ≤ copyCost len j := by
  unfold txNext
  split
  · exact (copyCost_of_lt ‹_›).ge
  · exact Nat.le_add_left _ _

/-! ### A result handed down -/

/-- A frame that takes the result of the frame above it by internal computation only. -/
def OpFrame.awaits : OpFrame → Bool
  | .rxDone | .txDone | .detect1 | .detect2 _ | .checkStatus _ | .setMode | .updLink _ | .updDup | .updSpeed _ | .linkUp
  | .initWritten _ _ | .initPoll _ _ _ | .initDetected _ _ | .initMode _ | .initRing | .initEnd _ | .deinitDone => true
  | _ => false

/-- A result stops at a frame that awaits none. -/
theorem resume_of_not_awaits {f : OpFrame} (hf : f.awaits = false) (v : Word) (fs : List OpFrame) (s : State) :
    resume v (f :: fs) s = (s, .run (f :: fs)) := by
  cases f
  case rxDone | txDone | detect1 | detect2 | checkStatus | setMode | updLink | updDup | updSpeed | linkUp | initWritten | initPoll
      | initDetected | initMode | initRing | initEnd | deinitDone => cases hf
  all_goals rfl

section
variable {polls : Nat} (hpolls : PollBound polls)
include hpolls

/-- What a frame does with the result it awaits: it hands a result to the frames below, or puts frames that cost less in its place. -/
theorem resume_awaits {f : OpFrame} (hf : f.awaits = true) (v : Word) (fs : List OpFrame) (s : State) :
    (∃ w u, resume v (f :: fs) s = resume w fs u) ∨
      ∃ u gs, resume v (f :: fs) s = (u, .run (gs ++ fs)) ∧ opCost polls gs < f.cost polls := by
  cases f
  case rxDone | txDone | detect2 | checkStatus | linkUp | initRing | initEnd | deinitDone => exact .inl ⟨_, _, rfl⟩
  case detect1 => exact .inr ⟨_, readPhyFrames 3 ++ [.detect2 v], rfl, Nat.lt_succ_self _⟩
  case setMode =>
    rw [resume]
    split
    · exact .inl ⟨_, _, rfl⟩
    · refine .inr ⟨_, updateStatusFrames, rfl, ?_⟩
      simp only [opCost_updateStatusFrames, OpFrame.cost, setModeCost]
      omega
  case updLink left =>
    rw [resume]
    split
    · refine .inr ⟨_, checkStatusFrames 2 ++ [.updDup], rfl, ?_⟩
      simp only [opCost_append, opCost_checkStatusFrames, opCost_cons, opCost_nil, OpFrame.cost, linkPollCost]
      omega
    · refine .inr ⟨_, [.updDelay left], rfl, ?_⟩
      simp only [opCost_cons, opCost_nil, OpFrame.cost, linkPollCost]
      omega
  case updDup => exact .inr ⟨_, checkStatusFrames 1 ++ [.updSpeed v], rfl, Nat.lt_succ_self _⟩
  case updSpeed d =>
    rw [resume]
    split
    · exact .inl ⟨_, _, rfl⟩
    · refine .inr ⟨_, [.seq (macConfigure (d == 1) (v == 1)), .linkUp], rfl, ?_⟩
      simp only [opCost_cons, opCost_nil, seqCost_macConfigure, OpFrame.cost]
      omega
  case initWritten mac mode =>
    rw [resume]
    split
    · exact .inl ⟨_, _, rfl⟩
    · refine .inr ⟨_, readPhyFrames 0 ++ [.initPoll mac mode (Config.phyResetRetries - 1)], rfl, ?_⟩
      have hle := initPollCost_mono polls hpolls.reset
      simp only [opCost_append, opCost_readPhyFrames, opCost_cons, opCost_nil, OpFrame.cost]
      omega
  case initPoll mac mode left =>
    simp only [resume]
    split
    · refine .inr ⟨_, detectFrames ++ [.initDetected mac mode], rfl, ?_⟩
      simp only [opCost_append, opCost_detectFrames, opCost_cons, opCost_nil, OpFrame.cost, initPollCost]
      omega
    · cases left with
      | zero => exact .inl ⟨_, _, rfl⟩
      | succ left =>
        refine .inr ⟨_, readPhyFrames 0 ++ [.initPoll mac mode left], rfl, ?_⟩
        simp only [opCost_append, opCost_readPhyFrames, opCost_cons, opCost_nil, OpFrame.cost, initPollCost, Nat.succ_mul]
        omega
  case initDetected mac mode =>
    rw [resume]
    split
    · exact .inl ⟨_, _, rfl⟩
    · cases bmcrValue mode with
      | none => exact .inl ⟨_, _, rfl⟩
      | some bmcr =>
        refine .inr ⟨_, setModeFrames bmcr ++ [.initMode mac], rfl, ?_⟩
        simp only [opCost_append, opCost_setModeFrames, opCost_cons, opCost_nil, OpFrame.cost, initDetectedCost]
        omega
  case initMode mac =>
    rw [resume]
    split
    · exact .inl ⟨_, _, rfl⟩
    · refine .inr ⟨_, [.seq (stationSeq mac), .initRing, .initRx, .initTx, .seq initTail, .initEnd (v == codeLinkDown)], rfl, ?_⟩
      simp only [opCost_cons, opCost_nil, seqCost_stationSeq, seqCost_initTail, OpFrame.cost, initModeCost]
      omega
  all_goals cases hf

/-- A result handed down costs nothing. -/
theorem resume_cost (v : Word) (fs : List OpFrame) (s : State) : opCost polls (resume v fs s).2.frames ≤ opCost polls fs := by
  induction fs generalizing v s with
  | nil => exact Nat.le_refl _
  | cons f fs below =>
    cases hf : f.awaits with
    | true =>
      rcases resume_awaits hpolls hf v fs s with ⟨w, u, h⟩ | ⟨u, gs, h, hlt⟩
      · rw [h, opCost_cons]; exact (below w u).trans (Nat.le_add_left _ _)
      · rw [h]; exact (opCost_lt_of_cost hlt fs).le
    | false => rw [resume_of_not_awaits hf]; exact Nat.le_refl _

/-- A frame that is done costs something. -/
theorem resume_cost_lt (v : Word) (f : OpFrame) (fs : List OpFrame) (s : State) :
    opCost polls (resume v fs s).2.frames < opCost polls (f :: fs) := by
  have hpos := f.cost_pos polls
  have hle := resume_cost hpolls v fs s
  rw [opCost_cons]
  omega

theorem resume_awaits_cost {f : OpFrame} (hf : f.awaits = true) (v : Word) (fs : List OpFrame) (s : State) :
    opCost polls (resume v (f :: fs) s).2.frames < opCost polls (f :: fs) := by
  rcases resume_awaits hpolls hf v fs s with ⟨w, u, h⟩ | ⟨u, gs, h, hlt⟩
  · rw [h]; exact resume_cost_lt hpolls w f fs u
  · rw [h]; exact opCost_lt_of_cost hlt fs

/-! ### One micro-step -/

theorem seqRest_cost (ms : List Micro) (fs : List OpFrame) (s : State) :
    opCost polls (seqRest ms fs s).2.frames ≤ seqCost ms + opCost polls fs := by
  cases ms with
  | nil => exact (resume_cost hpolls 0 fs s).trans (Nat.le_add_left _ _)
  | cons m ms => exact Nat.le_refl _

theorem rxNext_cost (pkt dst len j : Nat) (fs : List OpFrame) (s : State) :
    opCost polls (rxNext pkt dst len j fs s).2.frames ≤ copyCost len j + opCost polls fs := by
  unfold rxNext
  split
  · rw [copyCost_of_lt ‹_›]; exact Nat.le_refl _
  · exact (resume_cost hpolls 0 fs s).trans (Nat.le_add_left _ _)

theorem seqStep_cost (m : Micro) (ms : List Micro) (fs : List OpFrame) (s : State) :
    CostsBelow polls (opCost polls (.seq (m :: ms) :: fs)) (seqStep m ms fs s) := by
  have rest (hm : m.cost = 1) (u : State) : opCost polls (seqRest ms fs u).2.frames < opCost polls (.seq (m :: ms) :: fs) := by
    have hle := seqRest_cost hpolls ms fs u
    rw [opCost_cons, OpFrame.cost, seqCost_cons, hm]
    omega
  have write (hm : m.cost = 2) (r : Reg) (v : Word) :
      opCost polls (.seq (.write r v :: ms) :: fs) < opCost polls (.seq (m :: ms) :: fs) := by
    simp only [opCost_cons, OpFrame.cost, seqCost_cons, hm, show (Micro.write r v).cost = 1 from rfl]
    omega
  cases m with
  | write r v => exact costsBelow_doWrite (rest rfl)
  | setBits r m | clrBits r m => exact costsBelow_doRead fun _ _ => costsBelow_ok (write rfl _ _)
  | memWrite a v => exact costsBelow_doMemWrite (rest rfl)
  | delay => exact costsBelow_ok (rest rfl s)
  | powerOff => exact costsBelow_ok (rest rfl _)

/-- A micro-step lowers the cost of its operation. -/
theorem microStep_cost (f : OpFrame) (fs : List OpFrame) (s : State) :
    CostsBelow polls (opCost polls (f :: fs)) (microStep (f :: fs) s) := by
  have ends (v : Word) (u : State) : opCost polls (resume v fs u).2.frames < opCost polls (f :: fs) :=
    resume_cost_lt hpolls v f fs u
  have goesOn {g : OpFrame} (h : g.cost polls < f.cost polls) : opCost polls (g :: fs) < opCost polls (f :: fs) :=
    opCost_lt_of_cost (gs := [g]) h fs
  cases f with
  | seq ms =>
    cases ms with
    | nil => exact costsBelow_ok (ends _ _)
    | cons m ms => exact seqStep_cost hpolls m ms fs s
  | initRx | initTx =>
    refine costsBelow_doRead fun cmd u => ?_
    split
    · rintro _ ⟨⟩
    · exact costsBelow_ok (opCost_lt_of_cost (gs := [_, _]) (Nat.lt_succ_self _) fs)
  | txPkt p src len =>
    refine costsBelow_doMemRead fun pkt _ => goesOn ?_
    exact Nat.lt_succ_of_le (txNext_cost polls pkt.toNat p src len 0)
  | txRead | rxRead => exact costsBelow_doMemRead fun _ _ => goesOn (Nat.lt_succ_self _)
  | txWrite pkt p src len j =>
    refine costsBelow_doMemWrite fun _ => goesOn ?_
    exact Nat.lt_succ_of_le (txNext_cost polls pkt p src len (j + 1))
  | txCtl => exact costsBelow_doMemWrite (ends 0)
  | rxPkt c dst len =>
    refine costsBelow_doMemRead fun pkt u => ?_
    have hle := rxNext_cost hpolls pkt.toNat dst len 0 fs u
    rw [opCost_cons, OpFrame.cost]
    omega
  | rxWrite pkt dst len j w =>
    refine costsBelow_doMemWrite fun u => ?_
    have hle := rxNext_cost hpolls pkt dst len (j + 1) fs u
    rw [opCost_cons, OpFrame.cost]
    omega
  | chkRx | chkTx | rpData => exact costsBelow_doRead fun _ _ => costsBelow_ok (ends _ _)
  | wpMadr | rpMadr => exact costsBelow_doAddress fun _ => goesOn (Nat.lt_succ_self _)
  | wpMwtd | rpMcmd =>
    refine costsBelow_doWrite fun _ => goesOn ?_
    exact Nat.lt_succ_of_le (Nat.add_le_add_right hpolls.mii _)
  | rpClear => exact costsBelow_doWrite fun _ => goesOn (Nat.lt_succ_self _)
  | wpPoll left =>
    refine costsBelow_doRead fun m u => ?_
    split
    · exact costsBelow_ok (ends _ _)
    · cases left with
      | zero => exact costsBelow_ok (ends _ _)
      | succ left => exact costsBelow_ok (goesOn (Nat.lt_succ_self _))
  | rpPoll left =>
    refine costsBelow_doRead fun m u => ?_
    split
    · exact costsBelow_ok (goesOn (Nat.le_add_left _ _))
    · cases left with
      | zero => exact costsBelow_ok (ends _ _)
      | succ left => exact costsBelow_ok (goesOn (Nat.lt_succ_self _))
  | updDelay left =>
    cases left with
    | zero => exact costsBelow_ok (ends _ _)
    | succ left =>
      refine costsBelow_ok (opCost_lt_of_cost (gs := checkStatusFrames 0 ++ [.updLink left]) ?_ fs)
      simp only [opCost_append, opCost_checkStatusFrames, opCost_cons, opCost_nil, OpFrame.cost, linkPollCost, linkDelayCost,
        Nat.succ_mul]
      omega
  | _ => exact costsBelow_ok (resume_awaits_cost hpolls rfl 0 fs s)

end

/-! ### The obligation -/

/-- The running context goes on at the frames a micro-step leaves, or outside any operation. -/
theorem opCost_curOp_settle (polls : Nat) (x : State × Cont) : opCost polls (curOp (settle x)) ≤ opCost polls x.2.frames := by
  obtain ⟨t, gs | v⟩ := x
  · rcases curOp_putOp_cases gs t with ho | ho
    · exact (congrArg (opCost polls) ho).le
    · exact (congrArg (opCost polls) ho).le.trans (Nat.zero_le _)
  · exact (congrArg (opCost polls) (curOp_goTo _ _)).le

/-- Settles O60: the measure is the cost of the operation in progress. -/
theorem operationsTerminate : Obligations.OperationsTerminate := by
  obtain ⟨polls, hpolls⟩ := exists_pollBound
  refine ⟨opCost polls, fun s t _ hop h => ?_⟩
  obtain ⟨x, hx, rfl⟩ := opAnswer_ok h
  obtain ⟨f, fs, hcur⟩ := List.exists_cons_of_ne_nil hop
  rw [hcur] at hx ⊢
  exact (opCost_curOp_settle polls x).trans_lt (microStep_cost hpolls f fs s x hx)

end Sys2Proof.Machine
end
